-- ==== Sys2Proof/Word.lean ====
section
/-! DEFINITION. Bytes and the fixed 8-byte buffer (00_scope R10, R11; 20_memory R50). -/

namespace Sys2Proof

/-- A byte: bit 7 is its most significant bit (R10, R52). -/
abbrev Byte := BitVec 8

/-- `Bytes8` of R11: exactly 8 bytes, indexed 0 to 7. Byte 0 is the first data byte (R24, R50). -/
structure Bytes8 where
  b0 : Byte
  b1 : Byte
  b2 : Byte
  b3 : Byte
  b4 : Byte
  b5 : Byte
  b6 : Byte
  b7 : Byte
deriving DecidableEq, Repr, Inhabited

namespace Bytes8

/-- Byte `i` of the buffer. -/
def get (w : Bytes8) (i : Fin 8) : Byte :=
  match i with
  | 0 => w.b0
  | 1 => w.b1
  | 2 => w.b2
  | 3 => w.b3
  | 4 => w.b4
  | 5 => w.b5
  | 6 => w.b6
  | 7 => w.b7

/-- The buffer whose byte `i` is `f i`. -/
def ofFn (f : Fin 8 → Byte) : Bytes8 :=
  ⟨f 0, f 1, f 2, f 3, f 4, f 5, f 6, f 7⟩

/-- Eight zero bytes. -/
def zero : Bytes8 := ⟨0, 0, 0, 0, 0, 0, 0, 0⟩

/-- The bytes in index order. -/
def toList (w : Bytes8) : List Byte :=
  [w.b0, w.b1, w.b2, w.b3, w.b4, w.b5, w.b6, w.b7]

end Bytes8

end Sys2Proof
end

