-- ==== Sys2Proof/Config.lean ====
section
/-! DEFINITION. The configuration record of 00_scope R7 as plain data, its free value, and the reference
configurations of 92_eei_decisions D32. How its entries are looked up stands in Machine/Params.lean. -/

namespace Sys2Proof

/-- `MsgKind` of R14: the closed set of message kinds, in the source's order. -/
inductive MsgKind where
  | emergency
  | error
  | sentData
  | requestData
  | setData
deriving DecidableEq, Repr, Inhabited

/-- The five message kinds, in order. -/
def MsgKind.all : List MsgKind := [.emergency, .error, .sentData, .requestData, .setData]

/-- `Kind` of R14: a message kind, or OTHER. -/
inductive Kind where
  | msg (k : MsgKind)
  | other
deriving DecidableEq, Repr, Inhabited

/-- `EXT_WIDE_POLICY` of R7: what LIFT does with an extended identifier above 0x7FF (R123). -/
inductive ExtWidePolicy where
  | low11
  | fault
deriving DecidableEq, Repr, Inhabited

/-- `TYPE_CODE` of R7: one byte for each message kind. -/
structure TypeCodes where
  emergency : Byte
  error : Byte
  sentData : Byte
  requestData : Byte
  setData : Byte
deriving DecidableEq, Repr, Inhabited

/-- One row of a `Verdicts` table: inputs that agree with `value` on the bits of `mask` get `verdict`. -/
structure MaskRow (n : Nat) where
  mask : BitVec n
  value : BitVec n
  verdict : Bool
deriving DecidableEq, Repr, Inhabited

/-- A total function from `n` bits to Bool as plain data: the first matching row decides, `otherwise`
where none matches. Every such function has a table (log 1). DESIGN CHOICE, safe. -/
structure Verdicts (n : Nat) where
  rows : List (MaskRow n)
  otherwise : Bool
deriving DecidableEq, Repr, Inhabited

/-- The parameter record of R7. Nothing in it is architectural state and nothing in it changes (R7, R233);
a `State` carries it so that a step is a function of one argument (log 1). -/
structure Config where
  /-- `AB`, ADDRESS_BITS: the width of the address field. -/
  ab : Nat
  /-- `TYPE_CODE`. -/
  codes : TypeCodes
  /-- `FT_DECODE`: the type fields listed with their kinds; the first entry for a field decides. -/
  ftRows : List (BitVec 11 × Kind)
  /-- `FT_DECODE` on every type field not listed. -/
  ftOtherwise : Kind
  /-- `STATUS_VALID(0x00)`. -/
  status00 : Bool
  /-- `STATUS_VALID(0x80)`. -/
  status80 : Bool
  /-- `REASON_VALID`. -/
  reasons : Verdicts 15
  /-- `PARSE_MSG_OK`, over the window's 64 bits, byte 0 first. -/
  msgWindows : Verdicts 64
  /-- `PARSE_DID_OK`, over the 4-bit length and then the slice padded with zeros to 64 bits. -/
  didSlices : Verdicts 68
  /-- `EXT_WIDE_POLICY`. -/
  extWide : ExtWidePolicy
  /-- `LATENCY`: no rule depends on it (R245). -/
  latency : Nat
deriving DecidableEq, Repr, Inhabited

/-- What the source leaves open (every field of R7), as one free value: nothing constrains it and no proof
can see what it is (log 2). DESIGN CHOICE, safe. -/
opaque Config.free : Config

/-- The reference configuration RC of D32, for tests only; "not a claim about the repository". -/
def Config.rc : Config where
  ab := 7
  codes := ⟨0x0, 0x1, 0x2, 0x3, 0x4⟩
  ftRows := [(0, .msg .emergency), (1, .msg .error), (2, .msg .sentData), (3, .msg .requestData),
    (4, .msg .setData)]
  ftOtherwise := .other
  status00 := true
  status80 := true
  reasons := ⟨[⟨0x4000, 0x4000, false⟩], true⟩
  msgWindows := ⟨[⟨0xFF00000000000000, 0xFF00000000000000, false⟩], true⟩
  didSlices := ⟨[⟨0xF0000000000000000, 0x0, false⟩], true⟩
  extWide := .fault
  latency := 1

/-- RC' of D32: RC with STATUS_VALID(0x00) false. -/
def Config.rcPrime : Config := { Config.rc with status00 := false }

end Sys2Proof
end

