-- ==== Sys2Proof/Syntax.lean ====
section
/-! DEFINITION. The commands: operand ports and the command bundle (10_state R36, 30_encoding R70), the
decoded instruction (one constructor per row of opcode_table.json), and the textual form (R77, R78). -/

namespace Sys2Proof

/-- The operand input ports of 10_state R36, all sampled in one step (R70). -/
structure Operands where
  addr : Byte
  status : BitVec 1
  reason : BitVec 16
  code : BitVec 16
  wrOk : Bool
  wrLen : BitVec 4
  wrBytes : Bytes8
  genExt : Bool
  genRtr : Bool
  genId : BitVec 29
  genLen : BitVec 4
  genData : Bytes8
deriving DecidableEq, Repr, Inhabited

/-- The command bundle `C = (op, operands)` of R70: the 4-bit value on cmd_op and the operand ports. -/
structure Command where
  op : BitVec 4
  ports : Operands
deriving DecidableEq, Repr, Inhabited

/-- A command with the operands it reads (R74). -/
inductive Instr where
  /-- ENC.EMG, op 0x0 (R144). -/
  | encEmg (addr : Byte) (status : BitVec 1) (reason : BitVec 16)
  /-- ENC.ERR, op 0x1 (R147). -/
  | encErr (addr : Byte) (code : BitVec 16)
  /-- ENC.SENT, op 0x2 (R151). -/
  | encSent (addr : Byte) (wrOk : Bool) (wrLen : BitVec 4) (wrBytes : Bytes8)
  /-- ENC.REQ, op 0x3 (R152). -/
  | encReq (addr : Byte) (wrOk : Bool) (wrLen : BitVec 4) (wrBytes : Bytes8)
  /-- ENC.SET, op 0x4 (R153). -/
  | encSet (addr : Byte) (wrOk : Bool) (wrLen : BitVec 4) (wrBytes : Bytes8)
  /-- LIFT, op 0x7 (R120). -/
  | lift (genExt genRtr : Bool) (genId : BitVec 29) (genLen : BitVec 4) (genData : Bytes8)
  /-- DEC.EMG, op 0x8 (R172). -/
  | decEmg
  /-- DEC.ERR, op 0x9 (R176). -/
  | decErr
  /-- DEC.SENT, op 0xA (R177). -/
  | decSent
  /-- DEC.REQ, op 0xB (R179). -/
  | decReq
  /-- DEC.SET, op 0xC (R178). -/
  | decSet
  /-- The reserved opcode 0x5 (R73). -/
  | reserved5
  /-- The reserved opcode 0x6 (R73). -/
  | reserved6
  /-- The reserved opcode 0xD (R73). -/
  | reservedD
  /-- The reserved opcode 0xE (R73). -/
  | reservedE
  /-- The reserved opcode 0xF (R73). -/
  | reservedF
deriving DecidableEq, Repr, Inhabited

/-- A line of the assembler syntax of R77, or a pseudo-command of R78, as written: numbers not yet
checked against their port widths, byte lists not yet checked against 8 entries. -/
inductive Asm where
  | encEmg (addr status reason : Nat)
  | encErr (addr code : Nat)
  | encSent (addr wrOk wrLen : Nat) (bytes : List Nat)
  | encReq (addr wrOk wrLen : Nat) (bytes : List Nat)
  | encSet (addr wrOk wrLen : Nat) (bytes : List Nat)
  | lift (genExt genRtr genId genLen : Nat) (bytes : List Nat)
  | decEmg
  | decErr
  | decSent
  | decReq
  | decSet
  /-- `ENC.SENT addr, [b0 .. b(n-1)]` of R78. -/
  | sentOf (addr : Nat) (bytes : List Nat)
  /-- `ENC.REQ addr, [b0 .. b(n-1)]` of R78. -/
  | reqOf (addr : Nat) (bytes : List Nat)
  /-- `ENC.SET addr, [b0 .. b(n-1)]` of R78. -/
  | setOf (addr : Nat) (bytes : List Nat)
  /-- `LIFT.STD id, [b0 .. b(n-1)]` of R78. -/
  | liftStd (genId : Nat) (bytes : List Nat)
  /-- `LIFT.EXT id, [b0 .. b(n-1)]` of R78. -/
  | liftExt (genId : Nat) (bytes : List Nat)
deriving DecidableEq, Repr, Inhabited

end Sys2Proof
end

