-- ==== Sys2Proof/Decode.lean ====
section
/-! DEFINITION. The opcode map (30_encoding R72, R73), the decoder from a command bundle to an instruction,
total on every bundle (R71, R74), and the encoder back to a bundle. -/

namespace Sys2Proof

/-! ### The opcode map of R72 -/

def Opcode.encEmg : BitVec 4 := 0x0#4
def Opcode.encErr : BitVec 4 := 0x1#4
def Opcode.encSent : BitVec 4 := 0x2#4
def Opcode.encReq : BitVec 4 := 0x3#4
def Opcode.encSet : BitVec 4 := 0x4#4
def Opcode.reserved5 : BitVec 4 := 0x5#4
def Opcode.reserved6 : BitVec 4 := 0x6#4
def Opcode.lift : BitVec 4 := 0x7#4
def Opcode.decEmg : BitVec 4 := 0x8#4
def Opcode.decErr : BitVec 4 := 0x9#4
def Opcode.decSent : BitVec 4 := 0xA#4
def Opcode.decReq : BitVec 4 := 0xB#4
def Opcode.decSet : BitVec 4 := 0xC#4
def Opcode.reservedD : BitVec 4 := 0xD#4
def Opcode.reservedE : BitVec 4 := 0xE#4
def Opcode.reservedF : BitVec 4 := 0xF#4

/-- Decode a command bundle: by `op` alone (R71, R72), taking the operand ports that R74 names and no
other (R37). Total: no bundle is refused; a reserved opcode decodes to its own constructor, whose meaning
raises ILLEGAL_COMMAND (R73). -/
def decode (c : Command) : Instr :=
  match c.op.toNat with
  | 0x0 => .encEmg c.ports.addr c.ports.status c.ports.reason
  | 0x1 => .encErr c.ports.addr c.ports.code
  | 0x2 => .encSent c.ports.addr c.ports.wrOk c.ports.wrLen c.ports.wrBytes
  | 0x3 => .encReq c.ports.addr c.ports.wrOk c.ports.wrLen c.ports.wrBytes
  | 0x4 => .encSet c.ports.addr c.ports.wrOk c.ports.wrLen c.ports.wrBytes
  | 0x5 => .reserved5
  | 0x6 => .reserved6
  | 0x7 => .lift c.ports.genExt c.ports.genRtr c.ports.genId c.ports.genLen c.ports.genData
  | 0x8 => .decEmg
  | 0x9 => .decErr
  | 0xA => .decSent
  | 0xB => .decReq
  | 0xC => .decSet
  | 0xD => .reservedD
  | 0xE => .reservedE
  | _ => .reservedF

/-- Every operand port at zero. -/
def Operands.zero : Operands where
  addr := 0
  status := 0
  reason := 0
  code := 0
  wrOk := false
  wrLen := 0
  wrBytes := .zero
  genExt := false
  genRtr := false
  genId := 0
  genLen := 0
  genData := .zero

/-- The opcode of an instruction (R72). -/
def Instr.opcode : Instr → BitVec 4
  | .encEmg _ _ _ => Opcode.encEmg
  | .encErr _ _ => Opcode.encErr
  | .encSent _ _ _ _ => Opcode.encSent
  | .encReq _ _ _ _ => Opcode.encReq
  | .encSet _ _ _ _ => Opcode.encSet
  | .lift _ _ _ _ _ => Opcode.lift
  | .decEmg => Opcode.decEmg
  | .decErr => Opcode.decErr
  | .decSent => Opcode.decSent
  | .decReq => Opcode.decReq
  | .decSet => Opcode.decSet
  | .reserved5 => Opcode.reserved5
  | .reserved6 => Opcode.reserved6
  | .reservedD => Opcode.reservedD
  | .reservedE => Opcode.reservedE
  | .reservedF => Opcode.reservedF

/-- The operand ports of an instruction: those of R74 carry its operands, every other is zero. -/
def Instr.ports : Instr → Operands
  | .encEmg addr status reason =>
    { Operands.zero with addr := addr, status := status, reason := reason }
  | .encErr addr code => { Operands.zero with addr := addr, code := code }
  | .encSent addr ok len bs =>
    { Operands.zero with addr := addr, wrOk := ok, wrLen := len, wrBytes := bs }
  | .encReq addr ok len bs =>
    { Operands.zero with addr := addr, wrOk := ok, wrLen := len, wrBytes := bs }
  | .encSet addr ok len bs =>
    { Operands.zero with addr := addr, wrOk := ok, wrLen := len, wrBytes := bs }
  | .lift ext rtr id len bs =>
    { Operands.zero with genExt := ext, genRtr := rtr, genId := id, genLen := len, genData := bs }
  | .decEmg => Operands.zero
  | .decErr => Operands.zero
  | .decSent => Operands.zero
  | .decReq => Operands.zero
  | .decSet => Operands.zero
  | .reserved5 => Operands.zero
  | .reserved6 => Operands.zero
  | .reservedD => Operands.zero
  | .reservedE => Operands.zero
  | .reservedF => Operands.zero

/-- The bundle that presents an instruction (R70, R72, R74). -/
def encode (i : Instr) : Command := ⟨i.opcode, i.ports⟩

/-- The bundle of an opcode-table word: its bits 3..0 are cmd_op (the table's mask is 0xF), and the
operands are ports, "not bit fields of an instruction word" (R70), so they are zero (log 5). -/
def tableCommand (nbits w : Nat) : Command := ⟨BitVec.ofNat 4 (w % 2 ^ nbits), Operands.zero⟩

/-- The instruction the decoder reads from an opcode-table word. -/
def decodeTableWord (nbits w : Nat) : Option Instr := some (decode (tableCommand nbits w))

end Sys2Proof
end

