-- ==== Sys2Proof/Machine/Params.lean ====
section
/-! DEFINITION. The parameters of 00_scope R7 and the derived widths of R9, as functions of the
configuration record. -/

namespace Sys2Proof

/-- The verdict of a table on an input: the first row that matches, else `otherwise`. -/
def Verdicts.holds {n : Nat} (t : Verdicts n) (x : BitVec n) : Bool :=
  match t.rows.find? (fun r => x &&& r.mask == r.value) with
  | some r => r.verdict
  | none => t.otherwise

/-- The 64 bits of a buffer, byte 0 in the high bits: the input of a `Verdicts` table. -/
def Bytes8.bits (w : Bytes8) : BitVec 64 :=
  w.b0 ++ w.b1 ++ w.b2 ++ w.b3 ++ w.b4 ++ w.b5 ++ w.b6 ++ w.b7

/-- The first `n` bytes of a buffer, 0x00 from index `n` on (R126, R155, R179). -/
def Bytes8.keep (n : Nat) (w : Bytes8) : Bytes8 :=
  .ofFn fun i => if i.val < n then w.get i else 0

namespace Config

/-- `TB = 11 - AB` (R9). -/
def tb (c : Config) : Nat := 11 - c.ab

/-- `AMASK = 2^AB - 1` (R9). -/
def amask (c : Config) : Nat := 2 ^ c.ab - 1

/-- `TYPE_CODE(k)` (R7). -/
def typeCode (c : Config) (k : MsgKind) : Byte :=
  match k with
  | .emergency => c.codes.emergency
  | .error => c.codes.error
  | .sentData => c.codes.sentData
  | .requestData => c.codes.requestData
  | .setData => c.codes.setData

/-- `FT_DECODE(t)`: total, from a type field (zero-extended to 11 bits) to a Kind (R7, R107). -/
def ftDecode (c : Config) (t : BitVec 11) : Kind :=
  match c.ftRows.find? (fun r => r.1 == t) with
  | some r => r.2
  | none => c.ftOtherwise

/-- `STATUS_VALID(b)` for the status bytes 0x00 and 0x80, the only bytes it is given (R7, R144, R173). -/
def statusValid (c : Config) (b : Byte) : Bool :=
  if b = 0x80#8 then c.status80 else c.status00

/-- `REASON_VALID(r)` (R7). -/
def reasonValid (c : Config) (r : BitVec 15) : Bool := c.reasons.holds r

/-- `PARSE_MSG_OK(w)`: depends on the 8 bytes alone (R7, R180). -/
def parseMsgOk (c : Config) (w : Bytes8) : Bool := c.msgWindows.holds w.bits

/-- `PARSE_DID_OK(n, w[0:n))`: depends on the length and the first `n` bytes alone (R7, R181). -/
def parseDidOk (c : Config) (n : BitVec 4) (w : Bytes8) : Bool :=
  c.didSlices.holds (n ++ (w.keep n.toNat).bits)

end Config

end Sys2Proof
end

