-- ==== Sys2Proof/WellFormed.lean ====
section
/-! DEFINITION. Well-formed configurations (00_scope R8, W1 to W4, and the bound on LATENCY of R7) and
well-formed assembler lines (30_encoding R77, R78). Every command bundle is well formed: the host may issue
any opcode with any operand values (70_reset_and_hazards R240). -/

namespace Sys2Proof

namespace Config

/-- W1 of R8: `0 <= AB <= 8`. -/
def w1 (c : Config) : Bool := decide (c.ab ≤ 8)

/-- W2 of R8: TYPE_CODE is injective on the five message kinds. -/
def w2 (c : Config) : Bool :=
  MsgKind.all.all fun k => MsgKind.all.all fun j => k == j || c.typeCode k != c.typeCode j

/-- W3 of R8: `TYPE_CODE(k) < 2^TB`. -/
def w3 (c : Config) : Bool := MsgKind.all.all fun k => decide ((c.typeCode k).toNat < 2 ^ c.tb)

/-- W4 of R8: `FT_DECODE(TYPE_CODE(k)) = k`. -/
def w4 (c : Config) : Bool :=
  MsgKind.all.all fun k => c.ftDecode ((c.typeCode k).setWidth 11) == .msg k

/-- R7: LATENCY is at least 1. -/
def latencyOk (c : Config) : Bool := decide (1 ≤ c.latency)

/-- A well-formed configuration (R8, and R7 for LATENCY). -/
def wf (c : Config) : Bool := c.w1 && c.w2 && c.w3 && c.w4 && c.latencyOk

/-- The configuration fixed before reset (R233): the free value where it is well formed. The other branch
is there only so that this constant is well formed; no proof can tell which branch it is (log 2). -/
def given : Config := if Config.free.wf then Config.free else Config.rc

end Config

/-- A written number fits a port of `n` bits (R36). -/
def fits (n x : Nat) : Bool := decide (x < 2 ^ n)

/-- A written byte list: at most 8 entries, each a byte (R77). -/
def bytesFit (bs : List Nat) : Bool := decide (bs.length ≤ 8) && bs.all (fits 8)

/-- A well-formed line: every number fits its port (R36) and every list is a byte list of at most 8
entries (R77, R78). -/
def Asm.wf : Asm → Bool
  | .encEmg addr status reason => fits 8 addr && fits 1 status && fits 16 reason
  | .encErr addr code => fits 8 addr && fits 16 code
  | .encSent addr ok len bs => fits 8 addr && fits 1 ok && fits 4 len && bytesFit bs
  | .encReq addr ok len bs => fits 8 addr && fits 1 ok && fits 4 len && bytesFit bs
  | .encSet addr ok len bs => fits 8 addr && fits 1 ok && fits 4 len && bytesFit bs
  | .lift ext rtr id len bs => fits 1 ext && fits 1 rtr && fits 29 id && fits 4 len && bytesFit bs
  | .decEmg => true
  | .decErr => true
  | .decSent => true
  | .decReq => true
  | .decSet => true
  | .sentOf addr bs => fits 8 addr && bytesFit bs
  | .reqOf addr bs => fits 8 addr && bytesFit bs
  | .setOf addr bs => fits 8 addr && bytesFit bs
  | .liftStd id bs => fits 29 id && bytesFit bs
  | .liftExt id bs => fits 29 id && bytesFit bs

end Sys2Proof
end

