-- ==== Sys2Proof/Machine/State.lean ====
section
/-! DEFINITION. The architectural state: the registers FR, RES and FAULT (10_state R20 to R31), with the
configuration and the host's inputs beside them, and the state after reset (70_reset_and_hazards R230). -/

namespace Sys2Proof.Machine

/-- The frame register FR (R21 to R25). -/
structure FrameReg where
  /-- FR.VALID (R21). -/
  valid : Bool
  /-- FR.ID (R22). -/
  id : BitVec 11
  /-- FR.LEN (R23). -/
  len : BitVec 4
  /-- FR.DATA[0..7] (R24). -/
  data : Bytes8
  /-- FR.KIND (R25). -/
  kind : Kind
deriving DecidableEq, Repr

/-- `DecErr` of R14: the values of RES.ERR (R29, R200). -/
inductive DecErr where
  | none
  | wrongKind
  | invalidStatus
  | invalidReason
  | payloadParse
deriving DecidableEq, Repr

/-- The decode-result register RES (10_state section 3). -/
structure ResReg where
  /-- RES.DONE. -/
  done : Bool
  /-- RES.ERR (R29). -/
  err : DecErr
  /-- RES.KIND. -/
  kind : Kind
  /-- RES.STATUS. -/
  status : BitVec 1
  /-- RES.REASON. -/
  reason : BitVec 15
  /-- RES.CODE. -/
  code : BitVec 16
  /-- RES.PLEN. -/
  plen : BitVec 4
  /-- RES.PB[0..7]. -/
  pb : Bytes8
deriving DecidableEq, Repr

/-- `FaultCause` of R211: the values of FAULT.CAUSE. -/
inductive FaultCause where
  | none
  | idRange
  | addrRange
  | statusRange
  | reasonRange
  | payloadSize
  | illegalCommand
  | noFrame
  | genIdRange
  | extIdWide
deriving DecidableEq, Repr

/-- The fault register FAULT (R31). -/
structure FaultReg where
  /-- FAULT.F, sticky. -/
  f : Bool
  /-- FAULT.CAUSE. -/
  cause : FaultCause
  /-- FAULT.OP. -/
  op : BitVec 4
deriving DecidableEq, Repr

/-- What the host holds at the input ports for one step (R36, R240): the rst port, and the command bundle
it presents, if it presents one (log 3). -/
structure HostInput where
  rst : Bool
  cmd : Option Command
deriving DecidableEq, Repr

/-- The arguments of `Step(cfg, S, C)` (R13) as one record. The architectural state S is exactly `fr`, `res`
and `fault` (R20); `cfg` and `inputs` are the model's own fields (log 1, log 3). -/
structure State where
  /-- The configuration of R7; no step writes it. -/
  cfg : Config
  fr : FrameReg
  res : ResReg
  fault : FaultReg
  /-- The host's inputs not yet presented, oldest first (R59). -/
  inputs : List HostInput
deriving DecidableEq, Repr

/-- The reset values of FR (R230). -/
def FrameReg.reset : FrameReg := ⟨false, 0x000#11, 0#4, .zero, .other⟩

/-- The reset values of RES (R230). -/
def ResReg.reset : ResReg := ⟨false, .none, .other, 0#1, 0x0000#15, 0x0000#16, 0#4, .zero⟩

/-- The reset values of FAULT (R230). -/
def FaultReg.reset : FaultReg := ⟨false, .none, 0x0#4⟩

/-- The reset state of R230 under a configuration, no input pending. -/
def State.resetWith (c : Config) : State := ⟨c, .reset, .reset, .reset, []⟩

/-- The machine right after reset (R230, R232), under the configuration fixed before it (R233, log 2). -/
def State.reset : State := .resetWith Config.given

/-- Reasons for the machine to stop with a fault: there are none. R13's Step is total, and every fault of
60_exceptions R211 is an effect the spec gives (it writes FAULT and halts the block, R210, R212), hence a next
state (log 8). Safe: no run of the model ends where the block goes on. -/
inductive Fault : Type
deriving DecidableEq, Repr

/-- Reasons for the model to refuse an instruction. -/
inductive Refusal where
  /-- Raised by an arm of `exec` for an instruction with no meaning yet; no arm does now. Safe. -/
  | notModelled (mnemonic : String)
deriving DecidableEq, Repr

end Sys2Proof.Machine
end

