-- ==== Sys2Proof/Machine/Flags.lean ====
section
/-! DEFINITION. The register encodings of the enumerated fields (10_state R25, R29; 60_exceptions R211) and
the two ways a decoder ends, which write the flags RES.DONE and RES.ERR with the rest of RES (R28, R30, R34). -/

namespace Sys2Proof.Machine

/-- The FR.KIND encoding of a kind (R25). -/
def kindCode : Kind → BitVec 3
  | .msg .emergency => 0
  | .msg .error => 1
  | .msg .sentData => 2
  | .msg .requestData => 3
  | .msg .setData => 4
  | .other => 7

/-- The RES.ERR encoding (R29). -/
def DecErr.code : DecErr → BitVec 3
  | .none => 0
  | .wrongKind => 1
  | .invalidStatus => 2
  | .invalidReason => 3
  | .payloadParse => 4

/-- The FAULT.CAUSE encoding (R211). -/
def FaultCause.code : FaultCause → BitVec 4
  | .none => 0
  | .idRange => 1
  | .addrRange => 2
  | .statusRange => 3
  | .reasonRange => 4
  | .payloadSize => 5
  | .illegalCommand => 6
  | .noFrame => 7
  | .genIdRange => 8
  | .extIdWide => 9

/-- The payload fields of RES (R30). -/
structure Payload where
  status : BitVec 1
  reason : BitVec 15
  code : BitVec 16
  plen : BitVec 4
  pb : Bytes8
deriving DecidableEq, Repr

/-- Every payload field 0 (R30). -/
def Payload.zero : Payload := ⟨0, 0, 0, 0, .zero⟩

/-- The payload fields of a decoded Emergency: RES.STATUS and RES.REASON, the others 0 (R30). -/
def Payload.emergency (status : BitVec 1) (reason : BitVec 15) : Payload :=
  { Payload.zero with status := status, reason := reason }

/-- The payload field of a decoded Error: RES.CODE, the others 0 (R30). -/
def Payload.error (code : BitVec 16) : Payload := { Payload.zero with code := code }

/-- The payload fields of a decoded data kind: RES.PLEN and RES.PB, the others 0 (R30). -/
def Payload.window (plen : BitVec 4) (pb : Bytes8) : Payload :=
  { Payload.zero with plen := plen, pb := pb }

/-- Write every field of RES (R28): DONE is set, ERR, KIND and the payload are as given. -/
def writeRes (e : DecErr) (k : MsgKind) (p : Payload) (s : State) : State :=
  { s with res := ⟨true, e, .msg k, p.status, p.reason, p.code, p.plen, p.pb⟩ }

/-- `report Err(e)` in the decoder of kind `k` (60_exceptions R201). -/
def reportErr (e : DecErr) (k : MsgKind) (s : State) : State := writeRes e k .zero s

/-- `RES_OK(K, fields)` (43_decode R171). -/
def resOk (k : MsgKind) (p : Payload) (s : State) : State := writeRes .none k p s

end Sys2Proof.Machine
end

