-- ==== Sys2Proof/Machine/Identifier.lean ====
section
/-! DEFINITION. The identifier bit-field packer and the frame-type decoder (40_identifier R100 to R107). -/

namespace Sys2Proof.Machine

/-- `PACK_ID(t, a)` of R101: ADDR_RANGE first (R103), then ID_RANGE (R102). -/
def packId (c : Config) (t a : Byte) : Except FaultCause (BitVec 11) :=
  if c.amask < a.toNat then .error .addrRange
  else
    let v : BitVec 16 := (t.setWidth 16 <<< c.ab) ||| a.setWidth 16
    if 0x7FF < v.toNat then .error .idRange else .ok (v.setWidth 11)

/-- `TYPE_FIELD(id)` of R104, zero-extended to 11 bits. -/
def typeField (c : Config) (id : BitVec 11) : BitVec 11 := id >>> c.ab

/-- `ADDR_FIELD(id)` of R105, zero-extended to 8 bits. -/
def addrField (c : Config) (id : BitVec 11) : Byte := (id &&& BitVec.ofNat 11 c.amask).setWidth 8

/-- `CLASSIFY(id) = FT_DECODE(TYPE_FIELD(id))` (R106, C3). -/
def classify (c : Config) (id : BitVec 11) : Kind := c.ftDecode (typeField c id)

end Sys2Proof.Machine
end

