-- ==== Sys2Proof/Machine/Operands.lean ====
section
/-! DEFINITION. Operand intake (30_encoding R74, R75): the payload of each constructor with its checks and
byte layout (42_encode), the identifier LIFT takes (41_lift), and the unpacking of each payload (43_decode). -/

namespace Sys2Proof.Machine

/-! ### Constructors: the length and the buffer, or the defect -/

/-- What a constructor's payload step gives: FR.LEN and FR.DATA. -/
structure Body where
  len : BitVec 4
  data : Bytes8
deriving DecidableEq, Repr

/-- A 2-byte layout, the other six bytes 0x00 (R142, R143). -/
def Body.two (b0 b1 : Byte) : Body := ⟨2, { Bytes8.zero with b0 := b0, b1 := b1 }⟩

/-- The status byte `zext_8(status) << 7` (R144, R146). -/
def statusByte (status : BitVec 1) : Byte := status.setWidth 8 <<< 7

/-- The Emergency payload step (R144 to R146): STATUS_RANGE, then REASON_RANGE, then the packing
`FR.DATA[0] = {status, reason[14:8]}`, `FR.DATA[1] = reason[7:0]` (R145, C1, C2). -/
def emergencyBody (c : Config) (status : BitVec 1) (reason : BitVec 16) : Except FaultCause Body :=
  if c.statusValid (statusByte status) = false then .error .statusRange
  else if reason.getLsbD 15 = true then .error .reasonRange
  else if c.reasonValid (reason.setWidth 15) = false then .error .reasonRange
  else
    .ok (.two (statusByte status ||| (reason.extractLsb' 8 7).setWidth 8) (reason.extractLsb' 0 8))

/-- The Error payload step: `FR.DATA[0] = code[15:8]`, `FR.DATA[1] = code[7:0]`; no check (R148, R149). -/
def errorBody (code : BitVec 16) : Except FaultCause Body :=
  .ok (.two (code.extractLsb' 8 8) (code.extractLsb' 0 8))

/-- The payload step of the data-carrying kinds: PAYLOAD_SIZE (R150), else the writer's first wr_len bytes
with zeros beyond (R155). -/
def writerBody (wrOk : Bool) (wrLen : BitVec 4) (wrBytes : Bytes8) : Except FaultCause Body :=
  if wrOk = false ∨ 8 < wrLen.toNat then .error .payloadSize
  else .ok ⟨wrLen, wrBytes.keep wrLen.toNat⟩

/-! ### LIFT -/

/-- The identifier intake of R120: standard (R121), extended up to 0x7FF (R122), extended above (R123). -/
def liftId (c : Config) (genExt : Bool) (genId : BitVec 29) : Except FaultCause (BitVec 11) :=
  if genExt = false then
    if genId.extractLsb' 11 18 ≠ 0 then .error .genIdRange else .ok (genId.setWidth 11)
  else if genId.toNat ≤ 0x7FF then .ok (genId.setWidth 11)
  else
    match c.extWide with
    | .low11 => .ok (genId.setWidth 11)
    | .fault => .error .extIdWide

/-- The length and data intake of R125 and R126: `min(gen_len, 8)`, and zeros from there on. -/
def liftBody (genLen : BitVec 4) (genData : Bytes8) : Body :=
  let n := min genLen.toNat 8
  ⟨BitVec.ofNat 4 n, genData.keep n⟩

/-! ### Decoders: the payload fields of RES, or the decode error -/

/-- The Emergency unpack (R172 to R175): INVALID_STATUS before INVALID_REASON. -/
def unpackEmergency (c : Config) (r : FrameReg) : Except DecErr Payload :=
  let reason : BitVec 15 := (r.data.b0.extractLsb' 0 7) ++ r.data.b1
  if c.statusValid (r.data.b0 &&& 0x80#8) = false then .error .invalidStatus
  else if c.reasonValid reason = false then .error .invalidReason
  else .ok (.emergency (r.data.b0.extractLsb' 7 1) reason)

/-- The Error unpack `{FR.DATA[0], FR.DATA[1]}` (R176). -/
def unpackError (r : FrameReg) : Except DecErr Payload :=
  .ok (.error (r.data.b0 ++ r.data.b1))

/-- The data-message window: all 8 bytes, whatever FR.LEN is (R177, R178, R180). -/
def unpackMessage (c : Config) (r : FrameReg) : Except DecErr Payload :=
  if c.parseMsgOk r.data = false then .error .payloadParse else .ok (.window 8 r.data)

/-- The data-identifier window: exactly the first FR.LEN bytes (R179, R181). -/
def unpackIdentifier (c : Config) (r : FrameReg) : Except DecErr Payload :=
  if c.parseDidOk r.len r.data = false then .error .payloadParse
  else .ok (.window r.len (r.data.keep r.len.toNat))

end Sys2Proof.Machine
end

