-- ==== Sys2Proof/Machine/Ops.lean ====
section
/-! DEFINITION. The named operations over the registers: raising a fault and coming back from one, writing
FR, the bodies shared by the constructors and by the decoders, and taking the host's next input. -/

namespace Sys2Proof.Machine

/-! ### Taking a fault, and the return from it -/

/-- `raise Fault(cause)` in a command whose opcode is `op` (60_exceptions R210): only FAULT changes (R215).
It is reached only when FAULT.F = 0. -/
def raiseFault (cause : FaultCause) (op : BitVec 4) (s : State) : State :=
  { s with fault := ⟨true, cause, op⟩ }

/-- Reset, the only way out of the halted state (R216): every register takes its reset value (R230). -/
def resetBlock (s : State) : State :=
  { s with fr := .reset, res := .reset, fault := .reset }

/-- While FAULT.F = 1 a command has no effect on any state (R212). -/
def unlessHalted (run : State → State) (s : State) : State :=
  if s.fault.f = true then s else run s

/-! ### Writing FR -/

/-- Write every field of FR (R27, R127, R143): KIND is `CLASSIFY(id)` and VALID is 1. -/
def writeFrame (id : BitVec 11) (b : Body) (s : State) : State :=
  { s with fr := ⟨true, id, b.len, b.data, classify s.cfg id⟩ }

/-- The constructor of kind `k` (42_encode R140): the identifier step (R141), then the payload step, then
the frame write (R143). The first defect ends the command (R213). -/
def construct (k : MsgKind) (op : BitVec 4) (addr : Byte) (body : Except FaultCause Body) :
    State → State :=
  unlessHalted fun s =>
    match packId s.cfg (s.cfg.typeCode k) addr with
    | .error cause => raiseFault cause op s
    | .ok id =>
      match body with
      | .error cause => raiseFault cause op s
      | .ok b => writeFrame id b s

/-- LIFT of 41_lift R120: the identifier intake, then the frame write. -/
def liftFrame (op : BitVec 4) (genExt : Bool) (genId : BitVec 29) (body : Body) : State → State :=
  unlessHalted fun s =>
    match liftId s.cfg genExt genId with
    | .error cause => raiseFault cause op s
    | .ok id => writeFrame id body s

/-- The decoder of kind `k`: the prologue of 43_decode R171, then the unpack, then RES (R170, R203). -/
def decodeFrame (k : MsgKind) (op : BitVec 4) (unpack : Config → FrameReg → Except DecErr Payload) :
    State → State :=
  unlessHalted fun s =>
    if s.fr.valid = false then raiseFault .noFrame op s
    else if s.fr.kind ≠ .msg k then reportErr .wrongKind k s
    else
      match unpack s.cfg s.fr with
      | .error e => reportErr e k s
      | .ok p => resOk k p s

/-- A command with a reserved opcode (30_encoding R73). -/
def reservedCommand (op : BitVec 4) : State → State :=
  unlessHalted (raiseFault .illegalCommand op)

/-! ### The host's next input -/

/-- What one input of the host asks of the block (70_reset_and_hazards R230, R240). -/
inductive Event where
  | reset
  | idle
  | command (c : Command)
deriving DecidableEq, Repr

/-- A command presented while rst is asserted is ignored (R230); with rst released and no command presented
the block is idle (60_exceptions R223). -/
def HostInput.event (h : HostInput) : Event :=
  if h.rst = true then .reset
  else
    match h.cmd with
    | some c => .command c
    | none => .idle

/-- Take the oldest input (R59): the event, and the state with it consumed. With none left the block is
idle and holds its state (R223). -/
def takeInput (s : State) : Event × State :=
  match s.inputs with
  | [] => (.idle, s)
  | h :: rest => (h.event, { s with inputs := rest })

/-- Present a command as the very next input (R240). -/
def presentCommand (c : Command) (s : State) : State :=
  { s with inputs := ⟨false, some c⟩ :: s.inputs }

end Sys2Proof.Machine
end

