-- ==== Sys2Proof/Machine/Decoders.lean ====
section
/-! DEFINITION. The five decoders (43_decode R170 to R184). -/

namespace Sys2Proof.Machine

/-- DEC.EMG (R172). -/
def execDecEmg (s : State) : Host.Outcome State Fault Refusal :=
  .next (decodeFrame .emergency Opcode.decEmg unpackEmergency s)

/-- DEC.ERR (R176). -/
def execDecErr (s : State) : Host.Outcome State Fault Refusal :=
  .next (decodeFrame .error Opcode.decErr (fun _ r => unpackError r) s)

/-- DEC.SENT (R177). -/
def execDecSent (s : State) : Host.Outcome State Fault Refusal :=
  .next (decodeFrame .sentData Opcode.decSent unpackMessage s)

/-- DEC.REQ (R179). -/
def execDecReq (s : State) : Host.Outcome State Fault Refusal :=
  .next (decodeFrame .requestData Opcode.decReq unpackIdentifier s)

/-- DEC.SET (R178). -/
def execDecSet (s : State) : Host.Outcome State Fault Refusal :=
  .next (decodeFrame .setData Opcode.decSet unpackMessage s)

end Sys2Proof.Machine
end

