-- ==== Sys2Proof/Machine/Encode.lean ====
section
/-! DEFINITION. The five constructors (42_encode R140 to R156). -/

namespace Sys2Proof.Machine

/-- ENC.EMG (R144). -/
def execEncEmg (addr : Byte) (status : BitVec 1) (reason : BitVec 16) (s : State) :
    Host.Outcome State Fault Refusal :=
  .next (construct .emergency Opcode.encEmg addr (emergencyBody s.cfg status reason) s)

/-- ENC.ERR (R147). -/
def execEncErr (addr : Byte) (code : BitVec 16) (s : State) : Host.Outcome State Fault Refusal :=
  .next (construct .error Opcode.encErr addr (errorBody code) s)

/-- ENC.SENT (R151). -/
def execEncSent (addr : Byte) (wrOk : Bool) (wrLen : BitVec 4) (wrBytes : Bytes8) (s : State) :
    Host.Outcome State Fault Refusal :=
  .next (construct .sentData Opcode.encSent addr (writerBody wrOk wrLen wrBytes) s)

/-- ENC.REQ (R152). -/
def execEncReq (addr : Byte) (wrOk : Bool) (wrLen : BitVec 4) (wrBytes : Bytes8) (s : State) :
    Host.Outcome State Fault Refusal :=
  .next (construct .requestData Opcode.encReq addr (writerBody wrOk wrLen wrBytes) s)

/-- ENC.SET (R153). -/
def execEncSet (addr : Byte) (wrOk : Bool) (wrLen : BitVec 4) (wrBytes : Bytes8) (s : State) :
    Host.Outcome State Fault Refusal :=
  .next (construct .setData Opcode.encSet addr (writerBody wrOk wrLen wrBytes) s)

end Sys2Proof.Machine
end

