-- ==== Sys2Proof/Machine/Lift.lean ====
section
/-! DEFINITION. LIFT (41_lift R120 to R129). -/

namespace Sys2Proof.Machine

/-- LIFT (R120). The remote flag is ignored (R124). -/
def execLift (genExt _genRtr : Bool) (genId : BitVec 29) (genLen : BitVec 4) (genData : Bytes8)
    (s : State) : Host.Outcome State Fault Refusal :=
  .next (liftFrame Opcode.lift genExt genId (liftBody genLen genData) s)

end Sys2Proof.Machine
end

