-- ==== Sys2Proof/Machine/Reserved.lean ====
section
/-! DEFINITION. The reserved opcodes (30_encoding R73). -/

namespace Sys2Proof.Machine

/-- The reserved opcode 0x5 (R73). -/
def execReserved5 (s : State) : Host.Outcome State Fault Refusal :=
  .next (reservedCommand Opcode.reserved5 s)

/-- The reserved opcode 0x6 (R73). -/
def execReserved6 (s : State) : Host.Outcome State Fault Refusal :=
  .next (reservedCommand Opcode.reserved6 s)

/-- The reserved opcode 0xD (R73). -/
def execReservedD (s : State) : Host.Outcome State Fault Refusal :=
  .next (reservedCommand Opcode.reservedD s)

/-- The reserved opcode 0xE (R73). -/
def execReservedE (s : State) : Host.Outcome State Fault Refusal :=
  .next (reservedCommand Opcode.reservedE s)

/-- The reserved opcode 0xF (R73). -/
def execReservedF (s : State) : Host.Outcome State Fault Refusal :=
  .next (reservedCommand Opcode.reservedF s)

end Sys2Proof.Machine
end

