-- ==== Sys2Proof/Machine/Dispatch.lean ====
section
/-! DEFINITION. One arm per row of spec/opcode_table.json. -/

namespace Sys2Proof.Machine

/-- The meaning of an instruction. -/
def exec (i : Instr) (s : State) : Host.Outcome State Fault Refusal :=
  match i with
  | .encEmg addr status reason => Sys2Proof.Machine.execEncEmg addr status reason s
  | .encErr addr code => Sys2Proof.Machine.execEncErr addr code s
  | .encSent addr wrOk wrLen wrBytes => Sys2Proof.Machine.execEncSent addr wrOk wrLen wrBytes s
  | .encReq addr wrOk wrLen wrBytes => Sys2Proof.Machine.execEncReq addr wrOk wrLen wrBytes s
  | .encSet addr wrOk wrLen wrBytes => Sys2Proof.Machine.execEncSet addr wrOk wrLen wrBytes s
  | .lift genExt genRtr genId genLen genData => Sys2Proof.Machine.execLift genExt genRtr genId genLen genData s
  | .decEmg => Sys2Proof.Machine.execDecEmg s
  | .decErr => Sys2Proof.Machine.execDecErr s
  | .decSent => Sys2Proof.Machine.execDecSent s
  | .decReq => Sys2Proof.Machine.execDecReq s
  | .decSet => Sys2Proof.Machine.execDecSet s
  | .reserved5 => Sys2Proof.Machine.execReserved5 s
  | .reserved6 => Sys2Proof.Machine.execReserved6 s
  | .reservedD => Sys2Proof.Machine.execReservedD s
  | .reservedE => Sys2Proof.Machine.execReservedE s
  | .reservedF => Sys2Proof.Machine.execReservedF s

end Sys2Proof.Machine
end

