-- ==== Sys2Proof/Machine/Step.lean ====
section
/-! DEFINITION. One step: the host's oldest input, taken and performed (00_scope R13; 20_memory R56, R59;
70_reset_and_hazards R240). -/

namespace Sys2Proof.Machine

/-- One step: a reset (R230), nothing (60_exceptions R223), or one command (R13). -/
def step (s : State) : Host.Outcome State Fault Refusal :=
  match takeInput s with
  | (.reset, s') => .next (resetBlock s')
  | (.idle, s') => .next s'
  | (.command c, s') => exec (decode c) s'

/-- `s` with an opcode-table word presented as its next command (log 4, log 5). -/
def State.withFetchWord (s : State) (nbits w : Nat) : State := presentCommand (tableCommand nbits w) s

end Sys2Proof.Machine
end

