-- ==== Sys2Proof/Machine/Asm.lean ====
section
/-! DEFINITION. The assembler (30_encoding R77, R78): one line of text to the command it stands for. -/

namespace Sys2Proof

/-! ### Well-formed lines to commands -/

/-- A written byte list as a buffer: "entries left out are 0x00" (R77). -/
def bytesOf (bs : List Nat) : Bytes8 := .ofFn fun i => BitVec.ofNat 8 (bs.getD i.val 0)

/-- The pseudo-commands expand to one core line each; n is the number of listed bytes (R78). -/
def Asm.expand : Asm → Asm
  | .sentOf addr bs => .encSent addr 1 bs.length bs
  | .reqOf addr bs => .encReq addr 1 bs.length bs
  | .setOf addr bs => .encSet addr 1 bs.length bs
  | .liftStd id bs => .lift 0 0 id bs.length bs
  | .liftExt id bs => .lift 1 0 id bs.length bs
  | a => a

/-- A one-bit port value. -/
def flagOf (x : Nat) : Bool := x == 1

/-- The command of a core line, each number at its port's width (R75); none for a pseudo-command. -/
def Asm.core : Asm → Option Instr
  | .encEmg addr status reason =>
    some (.encEmg (BitVec.ofNat 8 addr) (BitVec.ofNat 1 status) (BitVec.ofNat 16 reason))
  | .encErr addr code => some (.encErr (BitVec.ofNat 8 addr) (BitVec.ofNat 16 code))
  | .encSent addr ok len bs =>
    some (.encSent (BitVec.ofNat 8 addr) (flagOf ok) (BitVec.ofNat 4 len) (bytesOf bs))
  | .encReq addr ok len bs =>
    some (.encReq (BitVec.ofNat 8 addr) (flagOf ok) (BitVec.ofNat 4 len) (bytesOf bs))
  | .encSet addr ok len bs =>
    some (.encSet (BitVec.ofNat 8 addr) (flagOf ok) (BitVec.ofNat 4 len) (bytesOf bs))
  | .lift ext rtr id len bs =>
    some (.lift (flagOf ext) (flagOf rtr) (BitVec.ofNat 29 id) (BitVec.ofNat 4 len) (bytesOf bs))
  | .decEmg => some .decEmg
  | .decErr => some .decErr
  | .decSent => some .decSent
  | .decReq => some .decReq
  | .decSet => some .decSet
  | .sentOf _ _ => none
  | .reqOf _ _ => none
  | .setOf _ _ => none
  | .liftStd _ _ => none
  | .liftExt _ _ => none

/-- Assemble a line; an ill-formed line is refused. -/
def Asm.assemble (a : Asm) : Option Instr := if a.wf then a.expand.core else none

/-! ### Text to lines (R77; the lexical detail it leaves open is log 12) -/

/-- The tokens of a line. -/
inductive Token where
  | word (cs : List Char)
  | comma
  | openList
  | closeList
deriving DecidableEq, Repr

/-- End the word being read, if there is one. -/
def endWord (acc : List Char) (ts : List Token) : List Token :=
  if acc.isEmpty then ts else .word acc.reverse :: ts

/-- Split a line into tokens; `acc` is the word being read, last character first. A `;` begins a comment
that runs to the end of the line: R77 names no comments, and the programs of 95_test_vectors (P1) write them
so (log 12). DESIGN CHOICE, safe. -/
def tokens (acc : List Char) : List Char → List Token
  | [] => endWord acc []
  | c :: cs =>
    if c = ';' then endWord acc []
    else if c = ' ' then endWord acc (tokens [] cs)
    else if c = ',' then endWord acc (.comma :: tokens [] cs)
    else if c = '[' then endWord acc (.openList :: tokens [] cs)
    else if c = ']' then endWord acc (.closeList :: tokens [] cs)
    else tokens (c :: acc) cs

/-- The value of a digit in a base of at most 16. -/
def digit (base : Nat) (c : Char) : Option Nat :=
  let v :=
    if 48 ≤ c.toNat ∧ c.toNat ≤ 57 then c.toNat - 48
    else if 97 ≤ c.toNat ∧ c.toNat ≤ 102 then c.toNat - 87
    else if 65 ≤ c.toNat ∧ c.toNat ≤ 70 then c.toNat - 55
    else 16
  if v < base then some v else none

/-- The digits of a number, most significant first, after the value read so far. -/
def digits (base : Nat) (acc : Nat) : List Char → Option Nat
  | [] => some acc
  | c :: cs =>
    match digit base c with
    | some d => digits base (acc * base + d) cs
    | none => none

/-- An operand that is a number: "Numbers are hexadecimal with `0x` or decimal" (R77). Entries of a byte
list are `byteEntry`'s. -/
def number : List Char → Option Nat
  | [] => none
  | '0' :: 'x' :: c :: cs => digits 16 0 (c :: cs)
  | c :: cs => digits 10 0 (c :: cs)

/-- An entry of a byte list: hexadecimal, with `0x` or bare. R77 does not say which base a bare entry has;
95_test_vectors, which uses this syntax, writes bare hexadecimal bytes (`[AA BB CC DD]` in L5, `[11 22 33]`
in L1) beside `[0xC0 0x00]` in S5 (log 12). DESIGN CHOICE, safe. -/
def byteEntry : List Char → Option Nat
  | [] => none
  | '0' :: 'x' :: c :: cs => digits 16 0 (c :: cs)
  | c :: cs => digits 16 0 (c :: cs)

/-- A written operand. -/
inductive AsmOperand where
  | num (n : Nat)
  | list (bs : List Nat)
deriving DecidableEq, Repr

/-- Where the operand reader stands. -/
inductive ReadState where
  /-- An operand must come next. -/
  | want
  /-- Inside a byte list, its entries read so far, last first. -/
  | inList (bs : List Nat)
  /-- An operand is complete: a comma or the end of the line must come next. -/
  | done
deriving DecidableEq, Repr

/-- The operands, "separated by commas" (R77). -/
def operands : ReadState → List Token → Option (List AsmOperand)
  | .done, [] => some []
  | .want, [] => none
  | .inList _, [] => none
  | .want, .word w :: ts =>
    match number w, operands .done ts with
    | some n, some os => some (.num n :: os)
    | _, _ => none
  | .want, .openList :: ts => operands (.inList []) ts
  | .want, .comma :: _ => none
  | .want, .closeList :: _ => none
  | .inList bs, .word w :: ts =>
    match byteEntry w with
    | some n => operands (.inList (n :: bs)) ts
    | none => none
  | .inList bs, .closeList :: ts =>
    match operands .done ts with
    | some os => some (.list bs.reverse :: os)
    | none => none
  | .inList _, .comma :: _ => none
  | .inList _, .openList :: _ => none
  | .done, .comma :: ts => operands .want ts
  | .done, .word _ :: _ => none
  | .done, .openList :: _ => none
  | .done, .closeList :: _ => none

/-- The line of a mnemonic and its operands, in the order of R77 and R78. -/
def lineOf (m : List Char) (os : List AsmOperand) : Option Asm :=
  if m = "ENC.EMG".toList then
    match os with
    | [.num a, .num st, .num r] => some (.encEmg a st r)
    | _ => none
  else if m = "ENC.ERR".toList then
    match os with
    | [.num a, .num c] => some (.encErr a c)
    | _ => none
  else if m = "ENC.SENT".toList then
    match os with
    | [.num a, .num ok, .num n, .list bs] => some (.encSent a ok n bs)
    | [.num a, .list bs] => some (.sentOf a bs)
    | _ => none
  else if m = "ENC.REQ".toList then
    match os with
    | [.num a, .num ok, .num n, .list bs] => some (.encReq a ok n bs)
    | [.num a, .list bs] => some (.reqOf a bs)
    | _ => none
  else if m = "ENC.SET".toList then
    match os with
    | [.num a, .num ok, .num n, .list bs] => some (.encSet a ok n bs)
    | [.num a, .list bs] => some (.setOf a bs)
    | _ => none
  else if m = "LIFT".toList then
    match os with
    | [.num e, .num r, .num id, .num n, .list bs] => some (.lift e r id n bs)
    | _ => none
  else if m = "LIFT.STD".toList then
    match os with
    | [.num id, .list bs] => some (.liftStd id bs)
    | _ => none
  else if m = "LIFT.EXT".toList then
    match os with
    | [.num id, .list bs] => some (.liftExt id bs)
    | _ => none
  else if os.isEmpty then
    if m = "DEC.EMG".toList then some .decEmg
    else if m = "DEC.ERR".toList then some .decErr
    else if m = "DEC.SENT".toList then some .decSent
    else if m = "DEC.REQ".toList then some .decReq
    else if m = "DEC.SET".toList then some .decSet
    else none
  else none

/-- Read one line: "The mnemonic is followed by its operands" (R77). -/
def parseLine (cs : List Char) : Option Asm :=
  match tokens [] cs with
  | [.word m] => lineOf m []
  | .word m :: ts =>
    match operands .want ts with
    | some os => lineOf m os
    | none => none
  | _ => none

/-- The command a line of text stands for. -/
def assembleLine (line : String) : Option Instr :=
  match parseLine line.toList with
  | some a => a.assemble
  | none => none

end Sys2Proof
end

