-- ==== Sys2Proof/Machine/Ports.lean ====
section
/-! DEFINITION. The output ports (10_state R38 to R40), each a function of the state, and the Frame the host
takes from them to the transmit path (70_reset_and_hazards R240). -/

namespace Sys2Proof.Machine

/-- The output ports of R38, at their widths. cmd_done belongs to the cycle-level handshake and does not
appear (R244, log 6). -/
structure OutPorts where
  outValid : BitVec 1
  outId : BitVec 11
  outExt : BitVec 1
  outRtr : BitVec 1
  outLen : BitVec 4
  outData : Bytes8
  outKind : BitVec 3
  outType : BitVec 11
  outAddr : Byte
  resDone : BitVec 1
  resErr : BitVec 3
  resKind : BitVec 3
  resStatus : BitVec 1
  resReason : BitVec 15
  resCode : BitVec 16
  resPlen : BitVec 4
  resPb : Bytes8
  fault : BitVec 1
  faultCause : BitVec 4
  faultOp : BitVec 4
deriving DecidableEq, Repr

/-- The values of the output ports (R38); out_ext and out_rtr are hardwired to 0 (R39). -/
def State.out (s : State) : OutPorts where
  outValid := BitVec.ofBool s.fr.valid
  outId := s.fr.id
  outExt := 0
  outRtr := 0
  outLen := s.fr.len
  outData := s.fr.data
  outKind := kindCode s.fr.kind
  outType := typeField s.cfg s.fr.id
  outAddr := addrField s.cfg s.fr.id
  resDone := BitVec.ofBool s.res.done
  resErr := s.res.err.code
  resKind := kindCode s.res.kind
  resStatus := s.res.status
  resReason := s.res.reason
  resCode := s.res.code
  resPlen := s.res.plen
  resPb := s.res.pb
  fault := BitVec.ofBool s.fault.f
  faultCause := s.fault.cause.code
  faultOp := s.fault.op

/-- A Frame as the CAN transmit path takes it (R240): identifier, flags, and the first out_len bytes. -/
structure WireFrame where
  id : BitVec 11
  ext : BitVec 1
  rtr : BitVec 1
  bytes : List Byte
deriving DecidableEq, Repr

/-- "Transmit a Frame": only with out_valid = 1, and with out_ext and out_rtr as its flags (R240, R63). -/
def OutPorts.transmit (o : OutPorts) : Option WireFrame :=
  if o.outValid = 1 then
    some ⟨o.outId, o.outExt, o.outRtr, o.outData.toList.take o.outLen.toNat⟩
  else none

end Sys2Proof.Machine
end

