-- ==== Sys2Proof/Safety.lean ====
section
/-! DEFINITION. What counts as a safe run: how a run ends (70_reset_and_hazards R247), and the invariants the
spec states of the registers (10_state R26, R30, R31). -/

namespace Sys2Proof.Machine

/-! ### Runs (R247) -/

/-- The reset state under a configuration, followed by a finite sequence of commands (R247). -/
def State.loaded (c : Config) (cs : List Command) : State :=
  { State.resetWith c with inputs := cs.map fun cmd => ⟨false, some cmd⟩ }

/-- The end of a run: the state after its last pending input, each performed by one step (R247). -/
def State.runAll (s : State) : Host.Outcome State Fault Refusal :=
  Sys2Proof.core.run s.inputs.length s

/-- "A run ends well when FAULT.F = 0" (R247). -/
def State.endsWell (s : State) : Prop := s.fault.f = false

/-- The halted state of 60_exceptions R212; a run that ends in it "is never a successful end" (R247). -/
def State.halted (s : State) : Prop := s.fault.f = true

/-! ### Invariants of the registers -/

/-- FR: I2 to I4 of R26 when FR.VALID = 1 (I1 holds by the width), the reset values otherwise (R40). -/
structure FrameInv (c : Config) (r : FrameReg) : Prop where
  len_le : r.valid = true → r.len.toNat ≤ 8
  zero_beyond : r.valid = true → ∀ i : Fin 8, r.len.toNat ≤ i.val → r.data.get i = 0
  kind_eq : r.valid = true → r.kind = classify c r.id
  empty : r.valid = false → r = .reset

/-- The payload fields of RES. -/
def ResReg.payload (r : ResReg) : Payload := ⟨r.status, r.reason, r.code, r.plen, r.pb⟩

/-- RES: what R28 to R30 and the table of 10_state section 3 say of its fields. -/
structure ResInv (r : ResReg) : Prop where
  empty : r.done = false → r = .reset
  kind_asked : r.done = true → ∃ k : MsgKind, r.kind = .msg k
  zero_on_error : r.err ≠ .none → r.payload = .zero
  emergency_fields : r.kind = .msg .emergency → r.payload = .emergency r.status r.reason
  error_fields : r.kind = .msg .error → r.payload = .error r.code
  data_fields : r.kind ≠ .msg .emergency → r.kind ≠ .msg .error → r.payload = .window r.plen r.pb
  plen_le : r.plen.toNat ≤ 8
  zero_beyond : ∀ i : Fin 8, r.plen.toNat ≤ i.val → r.pb.get i = 0

/-- The "raised by" column of R211: whether a command with opcode `op` raises `cause`. -/
def raisedBy (cause : FaultCause) (op : BitVec 4) : Bool :=
  match cause with
  | .none => false
  | .idRange => decide (op.toNat ≤ 4)
  | .addrRange => decide (op.toNat ≤ 4)
  | .statusRange => decide (op.toNat = 0)
  | .reasonRange => decide (op.toNat = 0)
  | .payloadSize => decide (2 ≤ op.toNat ∧ op.toNat ≤ 4)
  | .illegalCommand => decide (op.toNat ∈ [0x5, 0x6, 0xD, 0xE, 0xF])
  | .noFrame => decide (8 ≤ op.toNat ∧ op.toNat ≤ 12)
  | .genIdRange => decide (op.toNat = 7)
  | .extIdWide => decide (op.toNat = 7)

/-- FAULT: the reset values until a fault (R31), then a cause with an opcode that raises it (R210, R211);
never ID_RANGE, which W3 rules out (R102). -/
structure FaultInv (r : FaultReg) : Prop where
  empty : r.f = false → r = .reset
  raised : r.f = true → raisedBy r.cause r.op = true
  not_idRange : r.cause ≠ .idRange

/-- The invariant of the machine: a well-formed configuration (R8, R233), the three registers' own
invariants, and no decode result before a Frame (R171). -/
structure State.Inv (s : State) : Prop where
  cfg_wf : s.cfg.wf = true
  frame : FrameInv s.cfg s.fr
  result : ResInv s.res
  fault : FaultInv s.fault
  result_after_frame : s.res.done = true → s.fr.valid = true

end Sys2Proof.Machine
end

