-- ==== Sys2Proof/Certificates/Slice0/Obligations.lean ====
section
/-! DEFINITION. The statements for the provers, from the numbered rules of spec/. -/

/-! ### Terms of the statements, written from the rules and not from the model's meanings -/

namespace Sys2Proof.Spec

open Sys2Proof.Machine

/-- `(TYPE_CODE(k) << AB) | a` as a number: the fields are adjacent with no overlap (R100). -/
def identNat (c : Config) (k : MsgKind) (a : Byte) : Nat := (c.typeCode k).toNat * 2 ^ c.ab + a.toNat

/-- The Frame a constructor of kind `k` leaves in FR (R143). -/
def built (c : Config) (k : MsgKind) (a : Byte) (len : BitVec 4) (data : Bytes8) : FrameReg :=
  ⟨true, BitVec.ofNat 11 (identNat c k a), len, data, .msg k⟩

/-- The state a fault leaves: only FAULT changes (R210). -/
def faulted (cause : FaultCause) (op : BitVec 4) (s : State) : State :=
  { s with fault := ⟨true, cause, op⟩ }

/-- The state a decode error leaves: RES written, every payload field 0 (R201). -/
def reported (e : DecErr) (k : MsgKind) (s : State) : State :=
  { s with res := ⟨true, e, .msg k, 0, 0, 0, 0, .zero⟩ }

/-- The status byte, 0x00 or 0x80 (R146). -/
def statusByteOf (status : BitVec 1) : Byte := if status = 1 then 0x80#8 else 0x00#8

/-- The kind a constructor builds. -/
def encKind : Instr → Option MsgKind
  | .encEmg _ _ _ => some .emergency
  | .encErr _ _ => some .error
  | .encSent _ _ _ _ => some .sentData
  | .encReq _ _ _ _ => some .requestData
  | .encSet _ _ _ _ => some .setData
  | _ => none

/-- The kind a decoder asks for. -/
def decKind : Instr → Option MsgKind
  | .decEmg => some .emergency
  | .decErr => some .error
  | .decSent => some .sentData
  | .decReq => some .requestData
  | .decSet => some .setData
  | _ => none

/-- LIFT or a constructor: the commands that write FR (R27). -/
def writesFrame : Instr → Bool
  | .lift _ _ _ _ _ => true
  | i => (encKind i).isSome

/-- The operand ports that an opcode reads (R74) hold the same values. -/
def readPortsAgree (op : BitVec 4) (p q : Operands) : Prop :=
  (op.toNat ≤ 4 → p.addr = q.addr) ∧
  (op = 0 → p.status = q.status ∧ p.reason = q.reason) ∧
  (op = 1 → p.code = q.code) ∧
  (op = 2 ∨ op = 3 ∨ op = 4 → p.wrOk = q.wrOk ∧ p.wrLen = q.wrLen ∧ p.wrBytes = q.wrBytes) ∧
  (op = 7 → p.genExt = q.genExt ∧ p.genRtr = q.genRtr ∧ p.genId = q.genId ∧ p.genLen = q.genLen ∧
    p.genData = q.genData)

/-- R211's table: the "raised by" and "condition" columns of each cause, for a command in the state it
starts from. -/
def faultCondition (s : State) (i : Instr) (cause : FaultCause) : Bool :=
  match cause with
  | .none => false
  | .idRange => (encKind i).any fun k => decide (0x7FF < identNat s.cfg k i.ports.addr)
  | .addrRange => (encKind i).isSome && decide (s.cfg.amask < i.ports.addr.toNat)
  | .statusRange =>
    decide (encKind i = some .emergency) && !s.cfg.statusValid (statusByteOf i.ports.status)
  | .reasonRange =>
    decide (encKind i = some .emergency) &&
      (decide (0x8000 ≤ i.ports.reason.toNat) ||
        !s.cfg.reasonValid (BitVec.ofNat 15 i.ports.reason.toNat))
  | .payloadSize =>
    decide (encKind i ∈ [some .sentData, some .requestData, some .setData]) &&
      (!i.ports.wrOk || decide (8 < i.ports.wrLen.toNat))
  | .illegalCommand => decide (i.opcode.toNat ∈ [0x5, 0x6, 0xD, 0xE, 0xF])
  | .noFrame => (decKind i).isSome && !s.fr.valid
  | .genIdRange =>
    decide (i.opcode = 0x7) && (!i.ports.genExt && decide (0x7FF < i.ports.genId.toNat))
  | .extIdWide =>
    decide (i.opcode = 0x7) && (i.ports.genExt && decide (0x7FF < i.ports.genId.toNat) &&
      decide (s.cfg.extWide = .fault))

/-- The order of R213. -/
def faultOrder : List FaultCause :=
  [.illegalCommand, .addrRange, .idRange, .statusRange, .reasonRange, .payloadSize, .genIdRange,
    .extIdWide, .noFrame]

/-- I1 to I4 of R26, without their premise `FR.VALID = 1`. -/
def frameInvariants (s : State) : Prop :=
  s.fr.id.toNat ≤ 0x7FF ∧ s.fr.len.toNat ≤ 8 ∧
    (∀ j : Fin 8, s.fr.len.toNat ≤ j.val → s.fr.data.get j = 0) ∧ s.fr.kind = classify s.cfg s.fr.id

/-- A data-kind constructor completes: FR.LEN is wr_len, and the kept bytes (R155). -/
def dataBuilds (k : MsgKind) (mk : Byte → Bool → BitVec 4 → Bytes8 → Instr) : Prop :=
  ∀ (s : State) (a : Byte) (n : BitVec 4) (w : Bytes8), s.cfg.wf = true → s.fault.f = false →
    a.toNat ≤ s.cfg.amask → n.toNat ≤ 8 →
    ∃ d : Bytes8, exec (mk a true n w) s = .next { s with fr := built s.cfg k a n d } ∧
      ∀ i : Fin 8, d.get i = if i.val < n.toNat then w.get i else 0

/-- A data-message decoder hands over all 8 bytes (R180). -/
def messageDecodes (k : MsgKind) (i : Instr) : Prop :=
  ∀ s : State, s.fault.f = false → s.fr.valid = true → s.fr.kind = .msg k →
    (s.cfg.parseMsgOk s.fr.data = true →
      exec i s = .next { s with res := ⟨true, .none, .msg k, 0, 0, 0, 8, s.fr.data⟩ }) ∧
    (s.cfg.parseMsgOk s.fr.data = false → exec i s = .next (reported .payloadParse k s))

end Sys2Proof.Spec

open Sys2Proof Sys2Proof.Machine Sys2Proof.Spec

/-! ### Steps, decoding and syntax -/

/-- R230: an input with rst asserted gives every register its reset value, whatever command comes with it,
and it is the only input that clears FAULT. The reset state's registers hold the same values. That the
configuration and the host's remaining inputs are kept is the model's inference (log 9). -/
def Obligations.ResetRestoresEveryRegister : Prop :=
  (∀ (s : State) (cmd : Option Command) (rest : List HostInput), s.inputs = ⟨true, cmd⟩ :: rest →
    step s = .next
      { cfg := s.cfg,
        fr := ⟨false, 0x000#11, 0#4, ⟨0, 0, 0, 0, 0, 0, 0, 0⟩, .other⟩,
        res := ⟨false, .none, .other, 0#1, 0x0000#15, 0x0000#16, 0#4, ⟨0, 0, 0, 0, 0, 0, 0, 0⟩⟩,
        fault := ⟨false, .none, 0x0#4⟩,
        inputs := rest }) ∧
  (∀ s t : State, step s = .next t → s.fault.f = true → t.fault.f = false →
    ∃ cmd rest, s.inputs = ⟨true, cmd⟩ :: rest) ∧
  State.reset.fr = ⟨false, 0x000#11, 0#4, ⟨0, 0, 0, 0, 0, 0, 0, 0⟩, .other⟩ ∧
  State.reset.res =
    ⟨false, .none, .other, 0#1, 0x0000#15, 0x0000#16, 0#4, ⟨0, 0, 0, 0, 0, 0, 0, 0⟩⟩ ∧
  State.reset.fault = ⟨false, .none, 0x0#4⟩ ∧ kindCode .other = 7 ∧ DecErr.none.code = 0 ∧
  FaultCause.none.code = 0

/-- A step runs the decoded instruction, after the input that presents it is consumed; with no command
presented, or no input left, the block holds its state. The queue of inputs is the model's own (log 3). -/
def Obligations.StepRunsTheDecodedCommand : Prop :=
  (∀ (s : State) (c : Command) (rest : List HostInput), s.inputs = ⟨false, some c⟩ :: rest →
    step s = exec (decode c) { s with inputs := rest }) ∧
  (∀ (s : State) (i : Instr) (rest : List HostInput), s.inputs = ⟨false, some (encode i)⟩ :: rest →
    step s = exec i { s with inputs := rest }) ∧
  (∀ (s : State) (rest : List HostInput), s.inputs = ⟨false, none⟩ :: rest →
    step s = .next { s with inputs := rest }) ∧
  (∀ s : State, s.inputs = [] → step s = .next s)

/-- Every command answers a next state, in every state and configuration. R13's Step is total over a
well-formed configuration; that the step is total over every other configuration too is the model's choice
(log 11), and that every fault is a next state is its inference (log 8). -/
def Obligations.EveryCommandAnswersANextState : Prop :=
  (∀ (i : Instr) (s : State), ∃ t, exec i s = .next t) ∧ (∀ s : State, ∃ t, step s = .next t)

/-- R72: the opcode map, row by row. -/
def Obligations.OpcodeMapDecodes : Prop :=
  (∀ p : Operands,
    decode ⟨0b0000#4, p⟩ = .encEmg p.addr p.status p.reason ∧
    decode ⟨0b0001#4, p⟩ = .encErr p.addr p.code ∧
    decode ⟨0b0010#4, p⟩ = .encSent p.addr p.wrOk p.wrLen p.wrBytes ∧
    decode ⟨0b0011#4, p⟩ = .encReq p.addr p.wrOk p.wrLen p.wrBytes ∧
    decode ⟨0b0100#4, p⟩ = .encSet p.addr p.wrOk p.wrLen p.wrBytes ∧
    decode ⟨0b0101#4, p⟩ = .reserved5 ∧ decode ⟨0b0110#4, p⟩ = .reserved6 ∧
    decode ⟨0b0111#4, p⟩ = .lift p.genExt p.genRtr p.genId p.genLen p.genData ∧
    decode ⟨0b1000#4, p⟩ = .decEmg ∧ decode ⟨0b1001#4, p⟩ = .decErr ∧
    decode ⟨0b1010#4, p⟩ = .decSent ∧ decode ⟨0b1011#4, p⟩ = .decReq ∧
    decode ⟨0b1100#4, p⟩ = .decSet ∧ decode ⟨0b1101#4, p⟩ = .reservedD ∧
    decode ⟨0b1110#4, p⟩ = .reservedE ∧ decode ⟨0b1111#4, p⟩ = .reservedF) ∧
  (∀ (i : Instr) (k : MsgKind), encKind i = some k →
    i.opcode.extractLsb' 0 3 = kindCode (.msg k) ∧ i.opcode.getLsbD 3 = false) ∧
  (∀ (i : Instr) (k : MsgKind), decKind i = some k →
    i.opcode.extractLsb' 0 3 = kindCode (.msg k) ∧ i.opcode.getLsbD 3 = true)

/-- R74: decoding an instruction's bundle gives it back, and two bundles decode alike exactly when they
have the same opcode and agree on the ports that opcode reads. -/
def Obligations.DecodeAndEncodeAgree : Prop :=
  (∀ i : Instr, decode (encode i) = i) ∧
  (∀ c d : Command, decode c = decode d ↔ c.op = d.op ∧ readPortsAgree c.op c.ports d.ports)

/-- R37: an operand port that a command does not use is ignored. -/
def Obligations.UnreadPortsAffectNothing : Prop :=
  ∀ (s : State) (c d : Command) (rest : List HostInput), c.op = d.op →
    readPortsAgree c.op c.ports d.ports →
    step { s with inputs := ⟨false, some c⟩ :: rest } = step { s with inputs := ⟨false, some d⟩ :: rest }

/-- R78: each pseudo-command assembles to the command of its expansion, n being the number of listed
bytes, and entries left out being 0x00 (R77). -/
def Obligations.PseudoCommandsExpand : Prop :=
  ∀ bs : List Nat, bs.length ≤ 8 → (∀ b ∈ bs, b < 256) →
    ∃ w : Bytes8, (∀ i : Fin 8, (w.get i).toNat = bs.getD i.val 0) ∧
      (∀ a < 256,
        (Asm.sentOf a bs).assemble = some (.encSent (BitVec.ofNat 8 a) true (BitVec.ofNat 4 bs.length) w) ∧
        (Asm.reqOf a bs).assemble = some (.encReq (BitVec.ofNat 8 a) true (BitVec.ofNat 4 bs.length) w) ∧
        (Asm.setOf a bs).assemble = some (.encSet (BitVec.ofNat 8 a) true (BitVec.ofNat 4 bs.length) w)) ∧
      (∀ id < 2 ^ 29,
        (Asm.liftStd id bs).assemble =
          some (.lift false false (BitVec.ofNat 29 id) (BitVec.ofNat 4 bs.length) w) ∧
        (Asm.liftExt id bs).assemble =
          some (.lift true false (BitVec.ofNat 29 id) (BitVec.ofNat 4 bs.length) w))

/-- R77's forms, one written line each, read as the command they name. That a bare entry of a byte list is
hexadecimal and that `;` begins a comment is the model's choice (log 12), as is the other lexical detail. -/
def Obligations.AssemblerReadsEveryForm : Prop :=
  assembleLine "ENC.EMG 0x05, 1, 0x1234" = some (.encEmg 0x05 1 0x1234) ∧
  assembleLine "ENC.ERR 5, 0xABCD" = some (.encErr 0x05 0xABCD) ∧
  assembleLine "ENC.SENT 0x10, 1, 3, [0x11 0x22 0x33]" =
    some (.encSent 0x10 true 3 ⟨0x11, 0x22, 0x33, 0, 0, 0, 0, 0⟩) ∧
  assembleLine "ENC.REQ 0x7F, 1, 1, [42]" = some (.encReq 0x7F true 1 ⟨0x42, 0, 0, 0, 0, 0, 0, 0⟩) ∧
  assembleLine "ENC.SET 0x80, 0, 9, []" = some (.encSet 0x80 false 9 ⟨0, 0, 0, 0, 0, 0, 0, 0⟩) ∧
  assembleLine "LIFT 1, 0, 0x1ABCDE, 2, [1 2]" =
    some (.lift true false 0x1ABCDE 2 ⟨1, 2, 0, 0, 0, 0, 0, 0⟩) ∧
  assembleLine "DEC.EMG    ; op 1000" = some .decEmg ∧ assembleLine "DEC.ERR" = some .decErr ∧
  assembleLine "DEC.SENT" = some .decSent ∧ assembleLine "DEC.REQ" = some .decReq ∧
  assembleLine "DEC.SET" = some .decSet

/-! ### Identifiers -/

/-- R108: PACK_ID composes the type code and a fitting address, and both fields come back. -/
def Obligations.PackIdComposesAndSplits : Prop :=
  ∀ (c : Config) (k : MsgKind) (a : Byte), c.wf = true → a.toNat ≤ c.amask →
    ∃ id : BitVec 11, packId c (c.typeCode k) a = .ok id ∧
      id.toNat = ((c.typeCode k).toNat <<< c.ab ||| a.toNat) ∧
      (typeField c id).toNat = (c.typeCode k).toNat ∧ addrField c id = a

/-- R103: an address that does not fit is ADDR_RANGE before any other check. -/
def Obligations.PackIdRefusesAWideAddress : Prop :=
  ∀ (c : Config) (t a : Byte), 2 ^ c.ab - 1 < a.toNat → packId c t a = .error .addrRange

/-- R102: a composed value above 0x7FF is ID_RANGE, and never for a type code of a well-formed
configuration (the second clause is the spec's own derivation from R8). -/
def Obligations.PackIdRefusesAWideIdentifier : Prop :=
  (∀ (c : Config) (t a : Byte), c.ab ≤ 8 → a.toNat ≤ c.amask →
    0x7FF < (t.toNat <<< c.ab ||| a.toNat) → packId c t a = .error .idRange) ∧
  (∀ (c : Config) (k : MsgKind) (a : Byte), c.wf = true → packId c (c.typeCode k) a ≠ .error .idRange)

/-- R106: CLASSIFY is FT_DECODE of the type field; identifiers that differ only in the address field
classify alike (the spec's own derivation). -/
def Obligations.ClassifyReadsTheTypeFieldOnly : Prop :=
  (∀ (c : Config) (id : BitVec 11),
    classify c id = c.ftDecode (BitVec.ofNat 11 (id.toNat / 2 ^ c.ab))) ∧
  (∀ (c : Config) (id id' : BitVec 11), id.toNat / 2 ^ c.ab = id'.toNat / 2 ^ c.ab →
    classify c id = classify c id')

/-! ### Constructors -/

/-- R145: ENC.EMG completes; `FR.DATA[0] = {status, reason[14:8]}`, `FR.DATA[1] = reason[7:0]`, the rest
0x00, FR.LEN 2, and nothing but FR changes. -/
def Obligations.EncEmgBuildsTheFrame : Prop :=
  ∀ (s : State) (a : Byte) (st : BitVec 1) (r : BitVec 16), s.cfg.wf = true → s.fault.f = false →
    a.toNat ≤ s.cfg.amask → s.cfg.statusValid (statusByteOf st) = true → r.toNat < 0x8000 →
    s.cfg.reasonValid (BitVec.ofNat 15 r.toNat) = true →
    ∃ d : Bytes8, exec (.encEmg a st r) s = .next { s with fr := built s.cfg .emergency a 2 d } ∧
      d.b0.toNat = st.toNat * 128 + r.toNat / 256 ∧ d.b1.toNat = r.toNat % 256 ∧
      ∀ i : Fin 8, 2 ≤ i.val → d.get i = 0

/-- R148: ENC.ERR completes for every code; `FR.DATA[0] = code[15:8]`, `FR.DATA[1] = code[7:0]`, the rest
0x00, FR.LEN 2, and nothing but FR changes. -/
def Obligations.EncErrBuildsTheFrame : Prop :=
  ∀ (s : State) (a : Byte) (code : BitVec 16), s.cfg.wf = true → s.fault.f = false →
    a.toNat ≤ s.cfg.amask →
    ∃ d : Bytes8, exec (.encErr a code) s = .next { s with fr := built s.cfg .error a 2 d } ∧
      d.b0.toNat = code.toNat / 256 ∧ d.b1.toNat = code.toNat % 256 ∧
      ∀ i : Fin 8, 2 ≤ i.val → d.get i = 0

/-- R155: ENC.SENT, ENC.REQ and ENC.SET complete; FR.LEN is wr_len, the first wr_len bytes are copied and
the rest are 0x00, and nothing but FR changes. -/
def Obligations.EncDataBuildsTheFrame : Prop :=
  dataBuilds .sentData .encSent ∧ dataBuilds .requestData .encReq ∧ dataBuilds .setData .encSet

/-- R146: the Emergency preconditions; the status is checked first, then bit 15 and the catalog. -/
def Obligations.EncEmgRefusesBadStatusAndReason : Prop :=
  ∀ (s : State) (a : Byte) (st : BitVec 1) (r : BitVec 16), s.cfg.wf = true → s.fault.f = false →
    a.toNat ≤ s.cfg.amask →
    (s.cfg.statusValid (statusByteOf st) = false →
      exec (.encEmg a st r) s = .next (faulted .statusRange 0x0 s)) ∧
    (s.cfg.statusValid (statusByteOf st) = true →
      0x8000 ≤ r.toNat ∨ s.cfg.reasonValid (BitVec.ofNat 15 r.toNat) = false →
      exec (.encEmg a st r) s = .next (faulted .reasonRange 0x0 s))

/-- R150: a writer that failed or declares more than 8 bytes is PAYLOAD_SIZE for the three data kinds. -/
def Obligations.EncDataRefusesAFailedWriter : Prop :=
  ∀ (s : State) (a : Byte) (ok : Bool) (n : BitVec 4) (w : Bytes8), s.cfg.wf = true →
    s.fault.f = false → a.toNat ≤ s.cfg.amask → ok = false ∨ 8 < n.toNat →
    exec (.encSent a ok n w) s = .next (faulted .payloadSize 0x2 s) ∧
    exec (.encReq a ok n w) s = .next (faulted .payloadSize 0x3 s) ∧
    exec (.encSet a ok n w) s = .next (faulted .payloadSize 0x4 s)

/-- An address that does not fit is ADDR_RANGE for all five constructors, before any payload check. -/
def Obligations.ConstructorsRefuseAWideAddress : Prop :=
  ∀ (s : State) (i : Instr) (k : MsgKind) (a : Byte), s.fault.f = false → encKind i = some k →
    i.ports.addr = a → s.cfg.amask < a.toNat → exec i s = .next (faulted .addrRange i.opcode s)

/-! ### LIFT -/

/-- R122, R125, R126, R127: LIFT completes on every identifier up to 0x7FF, standard or extended, and on a
wide extended one under LOW11: the low 11 bits, `min(gen_len, 8)` bytes copied, the rest 0x00, the kind
classified, and nothing but FR changes. -/
def Obligations.LiftBuildsTheFrame : Prop :=
  ∀ (s : State) (ext rtr : Bool) (id : BitVec 29) (n : BitVec 4) (w : Bytes8), s.fault.f = false →
    id.toNat ≤ 0x7FF ∨ (ext = true ∧ s.cfg.extWide = .low11) →
    ∃ d : Bytes8,
      exec (.lift ext rtr id n w) s = .next { s with fr :=
        ⟨true, BitVec.ofNat 11 id.toNat, BitVec.ofNat 4 (min n.toNat 8), d,
          classify s.cfg (BitVec.ofNat 11 id.toNat)⟩ } ∧
      ∀ i : Fin 8, d.get i = if i.val < min n.toNat 8 then w.get i else 0

/-- R121: a standard frame keeps its identifier, and one with a bit set above bit 10 is GEN_ID_RANGE. -/
def Obligations.LiftChecksStandardIdentifiers : Prop :=
  ∀ (s : State) (rtr : Bool) (id : BitVec 29) (n : BitVec 4) (w : Bytes8), s.fault.f = false →
    (id.extractLsb' 11 18 = 0 → ∃ t, exec (.lift false rtr id n w) s = .next t ∧
      t.fr.id = id.extractLsb' 0 11 ∧ t.fault = s.fault) ∧
    (id.extractLsb' 11 18 ≠ 0 →
      exec (.lift false rtr id n w) s = .next (faulted .genIdRange 0x7 s))

/-- R123: an extended identifier above 0x7FF follows EXT_WIDE_POLICY, under both of its values; RC takes
FAULT. -/
def Obligations.LiftWideIdentifierFollowsThePolicy : Prop :=
  (∀ (s : State) (rtr : Bool) (id : BitVec 29) (n : BitVec 4) (w : Bytes8), s.fault.f = false →
    0x7FF < id.toNat →
    (s.cfg.extWide = .low11 → ∃ t, exec (.lift true rtr id n w) s = .next t ∧
      t.fr.valid = true ∧ t.fr.id = id.extractLsb' 0 11 ∧ t.fault = s.fault) ∧
    (s.cfg.extWide = .fault → exec (.lift true rtr id n w) s = .next (faulted .extIdWide 0x7 s))) ∧
  Config.rc.extWide = .fault

/-- R124: gen_rtr is ignored, and out_rtr reports non-remote. -/
def Obligations.RemoteFlagIsIgnored : Prop :=
  ∀ (s : State) (ext rtr rtr' : Bool) (id : BitVec 29) (n : BitVec 4) (w : Bytes8),
    exec (.lift ext rtr id n w) s = exec (.lift ext rtr' id n w) s ∧ s.out.outRtr = 0

/-- R191 (a property the source states; the spec derives it): a lifted SentData identifier gives kind
SentData, whatever gen_ext and gen_rtr are. -/
def Obligations.LiftThenClassifySentData : Prop :=
  ∀ (s : State) (a : Byte) (ext rtr : Bool) (pid : BitVec 11) (n : BitVec 4) (w : Bytes8),
    s.cfg.wf = true → s.fault.f = false → a.toNat ≤ s.cfg.amask →
    packId s.cfg (s.cfg.typeCode .sentData) a = .ok pid →
    ∃ t, exec (.lift ext rtr (pid.setWidth 29) n w) s = .next t ∧ t.fr.valid = true ∧
      t.fr.id = pid ∧ t.fr.kind = .msg .sentData ∧ t.res = s.res ∧ t.fault = s.fault

/-! ### Decoders -/

/-- DEC.EMG completes, whatever FR.LEN is: RES.STATUS is bit 7 of byte 0 and RES.REASON the 7 + 8 bits
below it; the other payload fields are 0 and nothing but RES changes. -/
def Obligations.DecEmgReadsStatusAndReason : Prop :=
  ∀ (s : State) (st : BitVec 1) (r : BitVec 15), s.fault.f = false → s.fr.valid = true →
    s.fr.kind = .msg .emergency → st.toNat = s.fr.data.b0.toNat / 128 →
    r.toNat = s.fr.data.b0.toNat % 128 * 256 + s.fr.data.b1.toNat →
    s.cfg.statusValid (statusByteOf st) = true → s.cfg.reasonValid r = true →
    exec .decEmg s = .next { s with res := ⟨true, .none, .msg .emergency, st, r, 0, 0, .zero⟩ }

/-- R175, R190: an invalid status is INVALID_STATUS even if the reason is invalid too; with a valid status
an invalid reason is INVALID_REASON (R175's order is the spec's decision D20). -/
def Obligations.DecEmgErrorOrder : Prop :=
  ∀ (s : State) (st : BitVec 1) (r : BitVec 15), s.fault.f = false → s.fr.valid = true →
    s.fr.kind = .msg .emergency → st.toNat = s.fr.data.b0.toNat / 128 →
    r.toNat = s.fr.data.b0.toNat % 128 * 256 + s.fr.data.b1.toNat →
    (s.cfg.statusValid (statusByteOf st) = false →
      exec .decEmg s = .next (reported .invalidStatus .emergency s)) ∧
    (s.cfg.statusValid (statusByteOf st) = true → s.cfg.reasonValid r = false →
      exec .decEmg s = .next (reported .invalidReason .emergency s))

/-- DEC.ERR completes on every Error Frame, whatever FR.LEN is: RES.CODE is `{FR.DATA[0], FR.DATA[1]}`;
the other payload fields are 0 and nothing but RES changes. -/
def Obligations.DecErrReadsTheCode : Prop :=
  ∀ (s : State) (code : BitVec 16), s.fault.f = false → s.fr.valid = true → s.fr.kind = .msg .error →
    code.toNat = s.fr.data.b0.toNat * 256 + s.fr.data.b1.toNat →
    exec .decErr s = .next { s with res := ⟨true, .none, .msg .error, 0, 0, code, 0, .zero⟩ }

/-- R180: DEC.SENT and DEC.SET complete: the window is the full 8-byte buffer whatever FR.LEN is, and
PARSE_MSG_OK of those bytes decides. -/
def Obligations.DecMessageTakesTheFullWindow : Prop :=
  messageDecodes .sentData .decSent ∧ messageDecodes .setData .decSet

/-- R181: DEC.REQ completes: the window is exactly the first FR.LEN bytes, and PARSE_DID_OK of the length
and those bytes alone decides. -/
def Obligations.DecReqTakesTheLengthPrefix : Prop :=
  (∀ s : State, s.fault.f = false → s.fr.valid = true → s.fr.kind = .msg .requestData →
    (s.cfg.parseDidOk s.fr.len s.fr.data = true →
      ∃ w : Bytes8, exec .decReq s =
          .next { s with res := ⟨true, .none, .msg .requestData, 0, 0, 0, s.fr.len, w⟩ } ∧
        ∀ i : Fin 8, w.get i = if i.val < s.fr.len.toNat then s.fr.data.get i else 0) ∧
    (s.cfg.parseDidOk s.fr.len s.fr.data = false →
      exec .decReq s = .next (reported .payloadParse .requestData s))) ∧
  (∀ (c : Config) (n : BitVec 4) (w v : Bytes8), (∀ i : Fin 8, i.val < n.toNat → w.get i = v.get i) →
    c.parseDidOk n w = c.parseDidOk n v)

/-- R170: a decoder on another kind reports WRONG_KIND from the cached FR.KIND, whatever FR.DATA, FR.LEN
and FR.ID are. -/
def Obligations.DecodersCheckTheKindFirst : Prop :=
  ∀ (s : State) (i : Instr) (k : MsgKind), s.fault.f = false → s.fr.valid = true →
    decKind i = some k → s.fr.kind ≠ .msg k → exec i s = .next (reported .wrongKind k s)

/-- A decoder before any Frame raises NO_FRAME, before the kind check. -/
def Obligations.DecodersNeedAFrame : Prop :=
  ∀ (s : State) (i : Instr) (k : MsgKind), s.fault.f = false → s.fr.valid = false →
    decKind i = some k → exec i s = .next (faulted .noFrame i.opcode s)

/-- R201: a decode error writes RES with every payload field 0 and changes nothing else. -/
def Obligations.DecodeErrorWritesZeroPayload : Prop :=
  ∀ (s t : State) (i : Instr) (k : MsgKind), s.fault.f = false → s.fr.valid = true →
    decKind i = some k → exec i s = .next t → t.res.err ≠ .none → t = reported t.res.err k s

/-- R200: which decoder reports which error, under which code, and no other command produces a decode
error. -/
def Obligations.DecodeErrorsByCommand : Prop :=
  (∀ (s t : State) (i : Instr), exec i s = .next t → t.res ≠ s.res →
    (i = .decEmg ∧ t.res.err ∈ [.none, .wrongKind, .invalidStatus, .invalidReason]) ∨
    (i = .decErr ∧ t.res.err ∈ [.none, .wrongKind]) ∨
    (i ∈ [.decSent, .decReq, .decSet] ∧ t.res.err ∈ [.none, .wrongKind, .payloadParse])) ∧
  [DecErr.wrongKind, .invalidStatus, .invalidReason, .payloadParse].map DecErr.code = [1, 2, 3, 4]

/-- R202: a decode, with or without a decode error, does not set FAULT.F, and may be repeated: the same
decoder run again answers the same state. -/
def Obligations.DecodeDoesNotHaltTheBlock : Prop :=
  ∀ (s : State) (i : Instr) (k : MsgKind), s.fault.f = false → s.fr.valid = true →
    decKind i = some k →
    ∃ t, exec i s = .next t ∧ t.fault = s.fault ∧ t.fr = s.fr ∧ t.res.done = true ∧
      exec i t = .next t

/-- R184: decoders never write FR, and two decodes of the same FR under the same configuration write the
same RES, every field of it. -/
def Obligations.DecodersArePureInTheFrame : Prop :=
  (∀ (s t : State) (i : Instr), (decKind i).isSome = true → exec i s = .next t → t.fr = s.fr) ∧
  (∀ (s s' t t' : State) (i : Instr), (decKind i).isSome = true → s.cfg = s'.cfg → s.fr = s'.fr →
    s.fault.f = false → s'.fault.f = false → s.fr.valid = true →
    exec i s = .next t → exec i s' = .next t' → t.res = t'.res)

/-- R183 (the spec's derivation, D21): no decoder checks FR.LEN; DEC.EMG, DEC.ERR, DEC.SENT and DEC.SET
write the same RES whatever FR.LEN is. -/
def Obligations.DecodersCheckNoLength : Prop :=
  ∀ (s t t' : State) (n : BitVec 4) (i : Instr), i ∈ [.decEmg, .decErr, .decSent, .decSet] →
    exec i s = .next t → exec i { s with fr := { s.fr with len := n } } = .next t' →
    t'.res = t.res ∧ t'.fault = t.fault

/-- R187 (the spec's derivation): a Frame of kind OTHER fails all five decoders with WRONG_KIND, and only
LIFT of an identifier whose type field FT_DECODE maps to OTHER makes one. -/
def Obligations.OtherKindFailsEveryDecoder : Prop :=
  (∀ (s : State) (i : Instr) (k : MsgKind), s.fault.f = false → s.fr.valid = true →
    s.fr.kind = .other → decKind i = some k → exec i s = .next (reported .wrongKind k s)) ∧
  (∀ (s t : State) (i : Instr), s.cfg.wf = true → exec i s = .next t → t.fr.valid = true →
    t.fr.kind = .other → t.fr ≠ s.fr →
    ∃ ext rtr id n w, i = .lift ext rtr id n w ∧
      t.cfg.ftDecode (BitVec.ofNat 11 (t.fr.id.toNat / 2 ^ t.cfg.ab)) = .other)

/-! ### Faults, the halted state, reserved opcodes -/

/-- R73: a reserved opcode raises ILLEGAL_COMMAND and has no other effect. -/
def Obligations.ReservedOpcodesAreIllegal : Prop :=
  ∀ (s : State) (op : BitVec 4) (p : Operands), op.toNat ∈ [0x5, 0x6, 0xD, 0xE, 0xF] →
    s.fault.f = false → exec (decode ⟨op, p⟩) s = .next (faulted .illegalCommand op s)

/-- The reserved instructions complete by taking their fault, each under its own opcode. -/
def Obligations.ReservedInstructionsTakeTheFault : Prop :=
  ∀ s : State, s.fault.f = false →
    exec .reserved5 s = .next (faulted .illegalCommand 0x5 s) ∧
    exec .reserved6 s = .next (faulted .illegalCommand 0x6 s) ∧
    exec .reservedD s = .next (faulted .illegalCommand 0xD s) ∧
    exec .reservedE s = .next (faulted .illegalCommand 0xE s) ∧
    exec .reservedF s = .next (faulted .illegalCommand 0xF s)

/-- R212: while FAULT.F = 1 every command, including a reserved opcode, changes no state and no output, and
the halted state is no good end of a run. That the host's input is consumed is the model's inference
(log 7). -/
def Obligations.HaltedBlockIgnoresCommands : Prop :=
  (∀ (i : Instr) (s : State), s.fault.f = true → exec i s = .next s) ∧
  (∀ (c : Command) (s : State) (rest : List HostInput), s.fault.f = true →
    s.inputs = ⟨false, some c⟩ :: rest →
    ∃ t, step s = .next t ∧ t = { s with inputs := rest } ∧ t.out = s.out) ∧
  (∀ s : State, s.fault.f = true → s.halted ∧ ¬ s.endsWell)

/-- R210: a fault records its cause and the command's opcode, and changes nothing else. -/
def Obligations.FaultsArePrecise : Prop :=
  ∀ (i : Instr) (s t : State), exec i s = .next t → t.fault ≠ s.fault →
    s.fault.f = false ∧ ∃ cause, cause ≠ .none ∧ t = faulted cause i.opcode s

/-- R211, R213: a command that is not halted faults exactly when a condition of the table holds, with the
first cause that applies in the order of R213; with none, FAULT is unchanged. -/
def Obligations.FaultsAreExactlyTheTable : Prop :=
  (∀ (i : Instr) (s t : State), s.cfg.ab ≤ 8 → s.fault.f = false → exec i s = .next t →
    match faultOrder.find? (faultCondition s i) with
    | some cause => t = faulted cause i.opcode s
    | none => t.fault = s.fault) ∧
  faultOrder.map FaultCause.code = [6, 2, 1, 3, 4, 5, 8, 9, 7] ∧ FaultCause.none.code = 0

/-- R102 over whole commands (the spec's derivation from R8): under a well-formed configuration no command
records ID_RANGE. -/
def Obligations.IdRangeIsNeverRecorded : Prop :=
  ∀ (i : Instr) (s t : State), s.cfg.wf = true → exec i s = .next t → s.fault.cause ≠ .idRange →
    t.fault.cause ≠ .idRange

/-! ### Frames and invariants -/

/-- R129, R156: LIFT and the constructors leave RES unchanged, and FAULT unless they fault; a command that
faults leaves FR and RES unchanged; decoders and reserved opcodes leave FR unchanged; no command touches the
configuration or the host's remaining inputs. -/
def Obligations.CommandFrames : Prop :=
  ∀ (i : Instr) (s t : State), exec i s = .next t →
    t.cfg = s.cfg ∧ t.inputs = s.inputs ∧
    (writesFrame i = true → t.res = s.res) ∧
    (writesFrame i = true → t.fault ≠ s.fault → t.fr = s.fr) ∧
    (writesFrame i = false → t.fr = s.fr) ∧
    (decKind i = none → t.res = s.res) ∧
    (t.fault ≠ s.fault → t.fr = s.fr ∧ t.res = s.res)

/-- R27: FR is replaced whole or not at all: what LIFT or a constructor writes depends on no field of the
old FR, and every other outcome leaves FR as it was. -/
def Obligations.FrameIsReplacedWholeOrNotAtAll : Prop :=
  (∀ (i : Instr) (s t : State), exec i s = .next t →
    writesFrame i = false ∨ t.fault ≠ s.fault ∨ s.fault.f = true → t.fr = s.fr) ∧
  (∀ (i : Instr) (s s' t t' : State), writesFrame i = true → s.cfg = s'.cfg → s.fault.f = false →
    s'.fault.f = false → exec i s = .next t → exec i s' = .next t' → t.fault.f = false →
    t.fr = t'.fr ∧ t.fr.valid = true)

/-- R26 (that every writing command establishes I1 to I4 is the spec's own derivation): a command that
sets FR.VALID to 1 establishes I1 to I4, from any state, and no other command changes FR;
so every step from the reset state keeps "when FR.VALID = 1, all four hold". -/
def Obligations.FrameInvariantsAreEstablished : Prop :=
  (∀ (i : Instr) (s t : State), exec i s = .next t →
    t.fr = s.fr ∨ (writesFrame i = true ∧ t.fr.valid = true ∧ frameInvariants t)) ∧
  (∀ s t : State, (s.fr.valid = true → frameInvariants s) → step s = .next t →
    t.fr.valid = true → frameInvariants t) ∧
  (∀ c : Config, (State.resetWith c).fr.valid = false)

/-- Every step keeps the machine's invariant (Safety.lean): a well-formed configuration, I2 to I4 of FR,
the zero fields of RES, and a FAULT that records a cause its opcode raises. -/
def Obligations.EveryStepKeepsTheInvariant : Prop :=
  ∀ s t : State, s.Inv → step s = .next t → t.Inv

/-- The reset state has the invariant, under every well-formed configuration. -/
def Obligations.ResetHasTheInvariant : Prop :=
  (∀ c : Config, c.wf = true → (State.resetWith c).Inv) ∧ State.reset.Inv

/-! ### The source's properties over pairs of commands -/

/-- R185 (properties the source states; the spec derives them): a constructor and then the decoder of its
kind give back the payload; for the data kinds, if the collaborator accepts the window. -/
def Obligations.RoundTripOfEveryKind : Prop :=
  ∀ (s : State) (a : Byte), s.cfg.wf = true → s.fault.f = false → a.toNat ≤ s.cfg.amask →
    (∀ (st : BitVec 1) (r : BitVec 16), s.cfg.statusValid (statusByteOf st) = true →
      r.toNat < 0x8000 → s.cfg.reasonValid (BitVec.ofNat 15 r.toNat) = true →
      ∃ t u, exec (.encEmg a st r) s = .next t ∧ exec .decEmg t = .next u ∧ u.res.err = .none ∧
        u.res.status = st ∧ u.res.reason.toNat = r.toNat) ∧
    (∀ code : BitVec 16,
      ∃ t u, exec (.encErr a code) s = .next t ∧ exec .decErr t = .next u ∧ u.res.err = .none ∧
        u.res.code = code) ∧
    (∀ (n : BitVec 4) (w v : Bytes8), n.toNat ≤ 8 →
      (∀ i : Fin 8, v.get i = if i.val < n.toNat then w.get i else 0) →
      (s.cfg.parseMsgOk v = true →
        ∃ t u, exec (.encSent a true n w) s = .next t ∧ exec .decSent t = .next u ∧
          u.res.err = .none ∧ u.res.pb = v) ∧
      (s.cfg.parseMsgOk v = true →
        ∃ t u, exec (.encSet a true n w) s = .next t ∧ exec .decSet t = .next u ∧
          u.res.err = .none ∧ u.res.pb = v) ∧
      (s.cfg.parseDidOk n v = true →
        ∃ t u, exec (.encReq a true n w) s = .next t ∧ exec .decReq t = .next u ∧
          u.res.err = .none ∧ u.res.plen = n ∧ u.res.pb = v))

/-- R186 (a property the source states; the spec derives it): after a constructor of kind K, the decoder of
every other kind J reports WRONG_KIND. -/
def Obligations.KindIsolation : Prop :=
  ∀ (s t : State) (i j : Instr) (k l : MsgKind), s.cfg.wf = true → s.fault.f = false →
    encKind i = some k → decKind j = some l → l ≠ k → exec i s = .next t → t.fault.f = false →
    exec j t = .next (reported .wrongKind l t)

/-- R188 (a property the source states; the spec derives it, C2): status 1 and reason 0x1234 give bytes
0x92 0x34 and decode to (1, 0x1234). -/
def Obligations.EmergencyPackingOf1234 : Prop :=
  ∀ (s : State) (a : Byte), s.cfg.wf = true → s.fault.f = false → a.toNat ≤ s.cfg.amask →
    s.cfg.statusValid 0x80 = true → s.cfg.reasonValid 0x1234 = true →
    ∃ t u, exec (.encEmg a 1 0x1234) s = .next t ∧ t.fr.data.b0 = 0x92 ∧ t.fr.data.b1 = 0x34 ∧
      exec .decEmg t = .next u ∧ u.res.err = .none ∧ u.res.status = 1 ∧ u.res.reason = 0x1234

/-- R189 (a property the source states; the spec derives it): code 0xABCD gives bytes 0xAB 0xCD and
decodes to 0xABCD. -/
def Obligations.ErrorByteOrderOfABCD : Prop :=
  ∀ (s : State) (a : Byte), s.cfg.wf = true → s.fault.f = false → a.toNat ≤ s.cfg.amask →
    ∃ t u, exec (.encErr a 0xABCD) s = .next t ∧ t.fr.data.b0 = 0xAB ∧ t.fr.data.b1 = 0xCD ∧
      exec .decErr t = .next u ∧ u.res.err = .none ∧ u.res.code = 0xABCD

/-! ### Ports, runs and the configuration -/

/-- R39: out_ext and out_rtr are 0 in every state, whatever LIFT received. -/
def Obligations.OutputsAreStandardAndNonRemote : Prop :=
  ∀ s : State, s.out.outExt = 0 ∧ s.out.outRtr = 0

/-- After a constructor that does not fault, out_type and out_addr show the kind's type code and the
address, out_kind the kind's code, and out_valid is 1. -/
def Obligations.PortsShowTheBuiltFrame : Prop :=
  ∀ (s t : State) (i : Instr) (k : MsgKind), s.cfg.wf = true → s.fault.f = false →
    encKind i = some k → exec i s = .next t → t.fault.f = false →
    t.out.outValid = 1 ∧ t.out.outType.toNat = (s.cfg.typeCode k).toNat ∧
    t.out.outAddr = i.ports.addr ∧ t.out.outKind = kindCode (.msg k) ∧
    t.out.outId.toNat = identNat s.cfg k i.ports.addr

/-- A Frame read out of the block is a value: lifting what the ports show, as a standard frame, leaves a
state with the invariant as it was. -/
def Obligations.LiftingTheOutputsChangesNothing : Prop :=
  ∀ (s : State) (rtr : Bool), s.Inv → s.fault.f = false → s.fr.valid = true →
    exec (.lift false rtr (s.out.outId.setWidth 29) s.out.outLen s.out.outData) s = .next s

/-- A run whose commands so far ended at fault ends in the same registers whatever commands follow, so it
never ends well (the run's end is R247; the spec's decision D8). -/
def Obligations.AFaultedRunNeverEndsWell : Prop :=
  ∀ (c : Config) (cs ds : List Command) (t : State), (State.loaded c cs).runAll = .next t → t.halted →
    ∃ u, (State.loaded c (cs ++ ds)).runAll = .next u ∧ u.fr = t.fr ∧ u.res = t.res ∧
      u.fault = t.fault ∧ ¬ u.endsWell

/-- The configuration does not change while the block runs. -/
def Obligations.ConfigurationNeverChanges : Prop :=
  ∀ s t : State, step s = .next t → t.cfg = s.cfg

/-- The plain-data configuration leaves no parameter of R7 out: every address width, type-code map, type
decoder, status, reason and parse verdict and policy is some configuration's (log 1). -/
def Obligations.ConfigurationsCoverEveryParameter : Prop :=
  ∀ (ab latency : Nat) (codes : MsgKind → Byte) (ft : BitVec 11 → Kind) (st : Byte → Bool)
    (rv : BitVec 15 → Bool) (pm : Bytes8 → Bool) (pd : BitVec 4 → Bytes8 → Bool) (ew : ExtWidePolicy),
    ∃ c : Config, c.ab = ab ∧ c.latency = latency ∧ c.extWide = ew ∧ (∀ k, c.typeCode k = codes k) ∧
      (∀ t, c.ftDecode t = ft t) ∧ c.statusValid 0x00 = st 0x00 ∧ c.statusValid 0x80 = st 0x80 ∧
      (∀ r, c.reasonValid r = rv r) ∧ (∀ w, c.parseMsgOk w = pm w) ∧
      (∀ (n : BitVec 4) (w : Bytes8), (∀ i : Fin 8, n.toNat ≤ i.val → w.get i = 0) →
        c.parseDidOk n w = pd n w)
end

