-- ==== Sys2Proof/Laws/Word.lean ====
section
/-! SUPPORT. The small lemmas of the 8-byte buffer. -/

namespace Sys2Proof.Bytes8

@[simp] theorem get_ofFn (f : Fin 8 → Byte) (i : Fin 8) : (ofFn f).get i = f i := by
  fin_cases i <;> rfl

@[simp] theorem get_zero (i : Fin 8) : zero.get i = 0 := by
  fin_cases i <;> rfl

/-- Two buffers with the same bytes are the same buffer. -/
theorem ext_get {w v : Bytes8} (h : ∀ i, w.get i = v.get i) : w = v := by
  cases w
  cases v
  have h0 := h 0; have h1 := h 1; have h2 := h 2; have h3 := h 3
  have h4 := h 4; have h5 := h 5; have h6 := h 6; have h7 := h 7
  simp only [get] at h0 h1 h2 h3 h4 h5 h6 h7
  simp [h0, h1, h2, h3, h4, h5, h6, h7]

@[simp] theorem get_keep (n : Nat) (w : Bytes8) (i : Fin 8) :
    (w.keep n).get i = if i.val < n then w.get i else 0 := by
  simp [keep]

/-- Keeping a prefix twice is keeping the shorter one. -/
theorem keep_keep (n m : Nat) (w : Bytes8) : (w.keep n).keep m = w.keep (min m n) := by
  refine ext_get fun i => ?_
  by_cases h1 : i.val < m <;> by_cases h2 : i.val < n <;> simp [h1, h2]

/-- A buffer that is zero from index `n` on is its own `n`-byte prefix. -/
theorem keep_eq_self {n : Nat} {w : Bytes8} (h : ∀ i : Fin 8, n ≤ i.val → w.get i = 0) :
    w.keep n = w := by
  refine ext_get fun i => ?_
  by_cases hi : i.val < n
  · simp [hi]
  · simp [hi, h i (Nat.le_of_not_lt hi)]

/-- A concatenation determines its two parts. -/
theorem append_inj {n m : Nat} {a b : BitVec n} {x y : BitVec m} (h : a ++ x = b ++ y) :
    a = b ∧ x = y := by
  constructor
  · have := congrArg (BitVec.extractLsb' m n) h
    rwa [BitVec.extractLsb'_append_eq_left, BitVec.extractLsb'_append_eq_left] at this
  · have := congrArg (BitVec.extractLsb' 0 m) h
    rwa [BitVec.extractLsb'_append_eq_right, BitVec.extractLsb'_append_eq_right] at this

/-- The bits of a buffer determine it. -/
theorem bits_injective {w v : Bytes8} (h : w.bits = v.bits) : w = v := by
  obtain ⟨a0, a1, a2, a3, a4, a5, a6, a7⟩ := w
  obtain ⟨c0, c1, c2, c3, c4, c5, c6, c7⟩ := v
  obtain ⟨h, rfl⟩ := append_inj h
  obtain ⟨h, rfl⟩ := append_inj h
  obtain ⟨h, rfl⟩ := append_inj h
  obtain ⟨h, rfl⟩ := append_inj h
  obtain ⟨h, rfl⟩ := append_inj h
  obtain ⟨h, rfl⟩ := append_inj h
  obtain ⟨rfl, rfl⟩ := append_inj h
  rfl

end Sys2Proof.Bytes8
end

