-- ==== Sys2Proof/Laws/Config.lean ====
section
/-! SUPPORT. What a well-formed configuration gives (00_scope R8), and what a `Verdicts` table can say. -/

namespace Sys2Proof

theorem MsgKind.mem_all (k : MsgKind) : k ∈ MsgKind.all := by
  cases k <;> decide

namespace Config

/-- R8 as propositions. -/
theorem wf_iff (c : Config) :
    c.wf = true ↔
      c.ab ≤ 8 ∧ (∀ k j, c.typeCode k = c.typeCode j → k = j) ∧
      (∀ k, (c.typeCode k).toNat < 2 ^ c.tb) ∧
      (∀ k, c.ftDecode ((c.typeCode k).setWidth 11) = .msg k) ∧ 1 ≤ c.latency := by
  have hall : ∀ p : MsgKind → Bool, MsgKind.all.all p = true ↔ ∀ k, p k = true := fun p => by
    rw [List.all_eq_true]
    exact ⟨fun h k => h k (MsgKind.mem_all k), fun h k _ => h k⟩
  simp only [wf, w1, w2, w3, w4, latencyOk, Bool.and_eq_true, hall, decide_eq_true_eq, beq_iff_eq,
    Bool.or_eq_true, bne_iff_ne, ne_eq]
  constructor
  · rintro ⟨⟨⟨⟨h1, h2⟩, h3⟩, h4⟩, h5⟩
    exact ⟨h1, fun k j h => (h2 k j).resolve_right (not_not.mpr h), h3, h4, h5⟩
  · rintro ⟨h1, h2, h3, h4, h5⟩
    refine ⟨⟨⟨⟨h1, fun k j => ?_⟩, h3⟩, h4⟩, h5⟩
    by_cases h : c.typeCode k = c.typeCode j
    · exact .inl (h2 k j h)
    · exact .inr h

/-- The reference configuration is well formed. -/
theorem rc_wf : rc.wf = true := by decide

/-- RC' is well formed. -/
theorem rcPrime_wf : rcPrime.wf = true := by decide

/-- The configuration fixed before reset is well formed (R233). -/
theorem given_wf : given.wf = true := by
  unfold given
  split
  · assumption
  · exact rc_wf

/-- `PARSE_DID_OK` looks at no byte from index `n` on (R181). -/
theorem parseDidOk_keep (c : Config) (n : BitVec 4) (w : Bytes8) :
    c.parseDidOk n (w.keep n.toNat) = c.parseDidOk n w := by
  simp [parseDidOk, Bytes8.keep_keep]

end Config

/-- With one row of full mask for each listed input, a table answers `f` on every listed input. -/
theorem Verdicts.holds_rows {n : Nat} (f : BitVec n → Bool) (d : Bool) (x : BitVec n) :
    ∀ xs : List (BitVec n), x ∈ xs →
      Verdicts.holds ⟨xs.map fun y => ⟨BitVec.allOnes n, y, f y⟩, d⟩ x = f x
  | y :: ys, h => by
    by_cases hy : x = y
    · subst hy
      simp [Verdicts.holds]
    · have := holds_rows f d x ys ((List.mem_cons.mp h).resolve_left hy)
      simpa [Verdicts.holds, List.find?_cons, beq_false_of_ne hy] using this

end Sys2Proof
end

