-- ==== Sys2Proof/Laws/Identifier.lean ====
section
/-! SUPPORT. The packer and the classifier (40_identifier R101 to R109). -/

namespace Sys2Proof.Machine

/-- The composed value of R101 as a number, once the address fits: the two fields do not overlap. -/
theorem packed_toNat {c : Config} (hab : c.ab ≤ 8) (t : Byte) {a : Byte} (ha : a.toNat ≤ c.amask) :
    ((t.setWidth 16 <<< c.ab) ||| a.setWidth 16 : BitVec 16).toNat = t.toNat * 2 ^ c.ab + a.toNat := by
  have hpow : (0 : Nat) < 2 ^ c.ab := Nat.two_pow_pos _
  have ha' : a.toNat < 2 ^ c.ab := by simp only [Config.amask] at ha; omega
  have hle : 2 ^ c.ab ≤ 2 ^ 8 := Nat.pow_le_pow_right (by decide) hab
  have ht := t.isLt
  have hlt : t.toNat * 2 ^ c.ab < 2 ^ 16 := by
    calc t.toNat * 2 ^ c.ab ≤ t.toNat * 2 ^ 8 := Nat.mul_le_mul_left _ hle
      _ < 2 ^ 16 := by omega
  simp only [BitVec.toNat_or, BitVec.toNat_shiftLeft, BitVec.toNat_setWidth]
  rw [Nat.mod_eq_of_lt (a := t.toNat) (by omega), Nat.mod_eq_of_lt (a := a.toNat) (by omega),
    Nat.shiftLeft_eq, Nat.mod_eq_of_lt hlt, ← Nat.shiftLeft_eq, ← Nat.shiftLeft_add_eq_or_of_lt ha']

/-- PACK_ID on an address that does not fit: ADDR_RANGE, before any other check (R103). -/
theorem packId_addrRange {c : Config} {t a : Byte} (h : c.amask < a.toNat) :
    packId c t a = .error .addrRange := by
  simp [packId, h]

/-- PACK_ID on a fitting address: ID_RANGE or the composed identifier (R101, R102). -/
theorem packId_fits {c : Config} (hab : c.ab ≤ 8) (t : Byte) {a : Byte} (ha : a.toNat ≤ c.amask) :
    packId c t a =
      if 0x7FF < t.toNat * 2 ^ c.ab + a.toNat then .error .idRange
      else .ok (BitVec.ofNat 11 (t.toNat * 2 ^ c.ab + a.toNat)) := by
  simp only [packId, Nat.not_lt.mpr ha, if_false, packed_toNat hab t ha]
  split
  · rfl
  · congr 1
    apply BitVec.eq_of_toNat_eq
    rw [BitVec.toNat_setWidth, packed_toNat hab t ha, BitVec.toNat_ofNat]

/-- Under W1 and W3 the composed identifier fits 11 bits (R102). -/
theorem composed_le {c : Config} (hc : c.wf = true) (k : MsgKind) {a : Byte} (ha : a.toNat ≤ c.amask) :
    (c.typeCode k).toNat * 2 ^ c.ab + a.toNat ≤ 0x7FF := by
  obtain ⟨hab, -, h3, -⟩ := c.wf_iff.mp hc
  have ht := h3 k
  have hpow : (0 : Nat) < 2 ^ c.ab := Nat.two_pow_pos _
  have hprod : 2 ^ c.tb * 2 ^ c.ab = 2048 := by
    rw [← Nat.pow_add, show c.tb + c.ab = 11 by simp only [Config.tb]; omega]
  have ha' : a.toNat < 2 ^ c.ab := by simp only [Config.amask] at ha; omega
  have : ((c.typeCode k).toNat + 1) * 2 ^ c.ab ≤ 2 ^ c.tb * 2 ^ c.ab := Nat.mul_le_mul_right _ ht
  rw [Nat.add_mul] at this
  omega

/-- PACK_ID of a kind's type code and a fitting address (R108). -/
theorem packId_kind {c : Config} (hc : c.wf = true) (k : MsgKind) {a : Byte} (ha : a.toNat ≤ c.amask) :
    packId c (c.typeCode k) a =
      .ok (BitVec.ofNat 11 ((c.typeCode k).toNat * 2 ^ c.ab + a.toNat)) := by
  rw [packId_fits (c.wf_iff.mp hc).1 _ ha, if_neg (Nat.not_lt.mpr (composed_le hc k ha))]

/-- The type field of a composed identifier is the type code. -/
theorem typeField_composed {c : Config} (hc : c.wf = true) (k : MsgKind) {a : Byte}
    (ha : a.toNat ≤ c.amask) :
    typeField c (BitVec.ofNat 11 ((c.typeCode k).toNat * 2 ^ c.ab + a.toNat)) =
      (c.typeCode k).setWidth 11 := by
  have hle := composed_le hc k ha
  have hpow : (0 : Nat) < 2 ^ c.ab := Nat.two_pow_pos _
  have ha' : a.toNat < 2 ^ c.ab := by simp only [Config.amask] at ha; omega
  have ht := (c.typeCode k).isLt
  apply BitVec.eq_of_toNat_eq
  rw [typeField, BitVec.toNat_ushiftRight, BitVec.toNat_ofNat, BitVec.toNat_setWidth,
    Nat.mod_eq_of_lt (by omega), Nat.shiftRight_eq_div_pow, Nat.mod_eq_of_lt (a := (c.typeCode k).toNat)
    (by omega), Nat.mul_comm, Nat.mul_add_div hpow, Nat.div_eq_of_lt ha', Nat.add_zero]

/-- The address field of a composed identifier is the address code. -/
theorem addrField_composed {c : Config} (hc : c.wf = true) (k : MsgKind) {a : Byte}
    (ha : a.toNat ≤ c.amask) :
    addrField c (BitVec.ofNat 11 ((c.typeCode k).toNat * 2 ^ c.ab + a.toNat)) = a := by
  have hle := composed_le hc k ha
  obtain ⟨hab, -⟩ := c.wf_iff.mp hc
  have hpow : (0 : Nat) < 2 ^ c.ab := Nat.two_pow_pos _
  have hp : 2 ^ c.ab ≤ 2 ^ 8 := Nat.pow_le_pow_right (by decide) hab
  have ha' : a.toNat < 2 ^ c.ab := by simp only [Config.amask] at ha; omega
  have hm : c.amask < 2 ^ 11 := by simp only [Config.amask]; omega
  apply BitVec.eq_of_toNat_eq
  rw [addrField, BitVec.toNat_setWidth, BitVec.toNat_and, BitVec.toNat_ofNat, BitVec.toNat_ofNat,
    Nat.mod_eq_of_lt (a := c.amask) hm, Nat.mod_eq_of_lt (b := 2 ^ 11) (by omega), Config.amask,
    Nat.and_two_pow_sub_one_eq_mod, Nat.mul_add_mod', Nat.mod_eq_of_lt ha']
  exact Nat.mod_eq_of_lt a.isLt

/-- The kind of a composed identifier is the constructor's own (R109). -/
theorem classify_composed {c : Config} (hc : c.wf = true) (k : MsgKind) {a : Byte}
    (ha : a.toNat ≤ c.amask) :
    classify c (BitVec.ofNat 11 ((c.typeCode k).toNat * 2 ^ c.ab + a.toNat)) = .msg k := by
  rw [classify, typeField_composed hc k ha]
  exact (c.wf_iff.mp hc).2.2.2.1 k

end Sys2Proof.Machine
end

