-- ==== Sys2Proof/Laws/State.lean ====
section
/-! SUPPORT. One lemma per field per update of the state. -/

namespace Sys2Proof.Machine

variable (s : State) (cause : FaultCause) (op : BitVec 4) (id : BitVec 11) (b : Body) (e : DecErr)
  (k : MsgKind) (p : Payload) (c : Command)

/-! ### raise Fault -/

@[simp] theorem raiseFault_cfg : (raiseFault cause op s).cfg = s.cfg := rfl
@[simp] theorem raiseFault_fr : (raiseFault cause op s).fr = s.fr := rfl
@[simp] theorem raiseFault_res : (raiseFault cause op s).res = s.res := rfl
@[simp] theorem raiseFault_fault : (raiseFault cause op s).fault = ⟨true, cause, op⟩ := rfl
@[simp] theorem raiseFault_inputs : (raiseFault cause op s).inputs = s.inputs := rfl

/-! ### Reset -/

@[simp] theorem resetBlock_cfg : (resetBlock s).cfg = s.cfg := rfl
@[simp] theorem resetBlock_fr : (resetBlock s).fr = .reset := rfl
@[simp] theorem resetBlock_res : (resetBlock s).res = .reset := rfl
@[simp] theorem resetBlock_fault : (resetBlock s).fault = .reset := rfl
@[simp] theorem resetBlock_inputs : (resetBlock s).inputs = s.inputs := rfl

/-! ### Frame write -/

@[simp] theorem writeFrame_cfg : (writeFrame id b s).cfg = s.cfg := rfl
@[simp] theorem writeFrame_fr :
    (writeFrame id b s).fr = ⟨true, id, b.len, b.data, classify s.cfg id⟩ := rfl
@[simp] theorem writeFrame_res : (writeFrame id b s).res = s.res := rfl
@[simp] theorem writeFrame_fault : (writeFrame id b s).fault = s.fault := rfl
@[simp] theorem writeFrame_inputs : (writeFrame id b s).inputs = s.inputs := rfl

/-! ### Result write -/

@[simp] theorem writeRes_cfg : (writeRes e k p s).cfg = s.cfg := rfl
@[simp] theorem writeRes_fr : (writeRes e k p s).fr = s.fr := rfl
@[simp] theorem writeRes_res :
    (writeRes e k p s).res = ⟨true, e, .msg k, p.status, p.reason, p.code, p.plen, p.pb⟩ := rfl
@[simp] theorem writeRes_fault : (writeRes e k p s).fault = s.fault := rfl
@[simp] theorem writeRes_inputs : (writeRes e k p s).inputs = s.inputs := rfl

theorem reportErr_eq : reportErr e k s = writeRes e k .zero s := rfl
theorem resOk_eq : resOk k p s = writeRes .none k p s := rfl

/-! ### Presenting a command -/

@[simp] theorem presentCommand_cfg : (presentCommand c s).cfg = s.cfg := rfl
@[simp] theorem presentCommand_fr : (presentCommand c s).fr = s.fr := rfl
@[simp] theorem presentCommand_res : (presentCommand c s).res = s.res := rfl
@[simp] theorem presentCommand_fault : (presentCommand c s).fault = s.fault := rfl
@[simp] theorem presentCommand_inputs :
    (presentCommand c s).inputs = ⟨false, some c⟩ :: s.inputs := rfl

/-! ### Halted -/

theorem unlessHalted_halted {run : State → State} {s : State} (h : s.fault.f = true) :
    unlessHalted run s = s := by
  simp [unlessHalted, h]

theorem unlessHalted_running {run : State → State} {s : State} (h : s.fault.f = false) :
    unlessHalted run s = run s := by
  simp [unlessHalted, h]

end Sys2Proof.Machine
end

