-- ==== Sys2Proof/Laws/Ops.lean ====
section
/-! SUPPORT. One lemma per shared operation: everything it can do. -/

namespace Sys2Proof.Machine

/-! ### Payload steps -/

theorem two_len (b0 b1 : Byte) : (Body.two b0 b1).len = 2 := rfl

theorem two_zero_beyond (b0 b1 : Byte) (i : Fin 8) (h : 2 ≤ i.val) :
    (Body.two b0 b1).data.get i = 0 := by
  fin_cases i <;> first | rfl | (exact absurd h (by decide))

/-- The Emergency payload step: the two defects in their order, else the packed bytes. -/
theorem emergencyBody_cases (c : Config) (status : BitVec 1) (reason : BitVec 16) :
    (c.statusValid (statusByte status) = false ∧
      emergencyBody c status reason = .error .statusRange) ∨
    (c.statusValid (statusByte status) = true ∧
      (reason.getLsbD 15 = true ∨ c.reasonValid (reason.setWidth 15) = false) ∧
      emergencyBody c status reason = .error .reasonRange) ∨
    (c.statusValid (statusByte status) = true ∧ reason.getLsbD 15 = false ∧
      c.reasonValid (reason.setWidth 15) = true ∧
      emergencyBody c status reason =
        .ok (.two (statusByte status ||| (reason.extractLsb' 8 7).setWidth 8)
          (reason.extractLsb' 0 8))) := by
  unfold emergencyBody
  cases h1 : c.statusValid (statusByte status) <;> cases h2 : reason.getLsbD 15 <;>
    cases h3 : c.reasonValid (reason.setWidth 15) <;> simp

/-- The data kinds' payload step: the one defect, else the length and the kept bytes. -/
theorem writerBody_cases (wrOk : Bool) (wrLen : BitVec 4) (wrBytes : Bytes8) :
    ((wrOk = false ∨ 8 < wrLen.toNat) ∧ writerBody wrOk wrLen wrBytes = .error .payloadSize) ∨
    (wrOk = true ∧ wrLen.toNat ≤ 8 ∧
      writerBody wrOk wrLen wrBytes = .ok ⟨wrLen, wrBytes.keep wrLen.toNat⟩) := by
  unfold writerBody
  by_cases h : wrOk = false ∨ 8 < wrLen.toNat
  · exact .inl ⟨h, if_pos h⟩
  · refine .inr ⟨?_, ?_, if_neg h⟩
    · simpa using (not_or.mp h).1
    · omega

/-- The identifier LIFT takes: the two defects, else the low 11 bits. -/
theorem liftId_cases (c : Config) (genExt : Bool) (genId : BitVec 29) :
    (genExt = false ∧ genId.extractLsb' 11 18 ≠ 0 ∧ liftId c genExt genId = .error .genIdRange) ∨
    (genExt = true ∧ 0x7FF < genId.toNat ∧ c.extWide = .fault ∧
      liftId c genExt genId = .error .extIdWide) ∨
    ((genExt = false → genId.extractLsb' 11 18 = 0) ∧
      (genExt = true → 0x7FF < genId.toNat → c.extWide = .low11) ∧
      liftId c genExt genId = .ok (genId.setWidth 11)) := by
  unfold liftId
  cases genExt
  · by_cases h : genId.extractLsb' 11 18 = 0
    · simp [h]
    · exact .inl ⟨rfl, h, by rw [if_pos rfl, if_pos h]⟩
  · by_cases h : genId.toNat ≤ 0x7FF
    · simp [h]
    · cases hw : c.extWide <;> simp [h, Nat.lt_of_not_le h]

theorem liftBody_len (genLen : BitVec 4) (genData : Bytes8) :
    (liftBody genLen genData).len.toNat = min genLen.toNat 8 := by
  simp only [liftBody, BitVec.toNat_ofNat]
  omega

/-! ### Constructors, LIFT and decoders in a block that is not halted -/

/-- A constructor raises one of the defects of its two steps, or writes FR. -/
theorem construct_cases {k : MsgKind} {op : BitVec 4} {addr : Byte} {body : Except FaultCause Body}
    {s : State} (h : s.fault.f = false) :
    (∃ cause, packId s.cfg (s.cfg.typeCode k) addr = .error cause ∧
      construct k op addr body s = raiseFault cause op s) ∨
    (∃ id cause, packId s.cfg (s.cfg.typeCode k) addr = .ok id ∧ body = .error cause ∧
      construct k op addr body s = raiseFault cause op s) ∨
    (∃ id b, packId s.cfg (s.cfg.typeCode k) addr = .ok id ∧ body = .ok b ∧
      construct k op addr body s = writeFrame id b s) := by
  simp only [construct, unlessHalted_running h]
  cases hp : packId s.cfg (s.cfg.typeCode k) addr with
  | error cause => exact .inl ⟨cause, rfl, rfl⟩
  | ok id =>
    cases body with
    | error cause => exact .inr (.inl ⟨id, cause, rfl, rfl, rfl⟩)
    | ok b => exact .inr (.inr ⟨id, b, rfl, rfl, rfl⟩)

/-- The defects of PACK_ID. -/
theorem packId_error {c : Config} {t a : Byte} {cause : FaultCause} (h : packId c t a = .error cause) :
    cause = .addrRange ∨ cause = .idRange := by
  unfold packId at h
  dsimp only at h
  split at h
  · exact .inl (by injection h with h; exact h.symm)
  · split at h
    · exact .inr (by injection h with h; exact h.symm)
    · cases h

/-- LIFT raises the defect of its identifier, or writes FR. -/
theorem liftFrame_cases {op : BitVec 4} {genExt : Bool} {genId : BitVec 29} {body : Body} {s : State}
    (h : s.fault.f = false) :
    (∃ cause, liftId s.cfg genExt genId = .error cause ∧
      liftFrame op genExt genId body s = raiseFault cause op s) ∨
    (∃ id, liftId s.cfg genExt genId = .ok id ∧
      liftFrame op genExt genId body s = writeFrame id body s) := by
  simp only [liftFrame, unlessHalted_running h]
  cases hp : liftId s.cfg genExt genId with
  | error cause => exact .inl ⟨cause, rfl, rfl⟩
  | ok id => exact .inr ⟨id, rfl, rfl⟩

/-- A decoder raises NO_FRAME, reports WRONG_KIND, or reports what its unpack says (R203). -/
theorem decodeFrame_cases {k : MsgKind} {op : BitVec 4}
    {unpack : Config → FrameReg → Except DecErr Payload} {s : State} (h : s.fault.f = false) :
    (s.fr.valid = false ∧ decodeFrame k op unpack s = raiseFault .noFrame op s) ∨
    (s.fr.valid = true ∧ s.fr.kind ≠ .msg k ∧
      decodeFrame k op unpack s = writeRes .wrongKind k .zero s) ∨
    (∃ e, s.fr.valid = true ∧ s.fr.kind = .msg k ∧ unpack s.cfg s.fr = .error e ∧
      decodeFrame k op unpack s = writeRes e k .zero s) ∨
    (∃ p, s.fr.valid = true ∧ s.fr.kind = .msg k ∧ unpack s.cfg s.fr = .ok p ∧
      decodeFrame k op unpack s = writeRes .none k p s) := by
  simp only [decodeFrame, unlessHalted_running h]
  cases hv : s.fr.valid
  · exact .inl ⟨rfl, rfl⟩
  · by_cases hk : s.fr.kind = .msg k
    · refine .inr (.inr ?_)
      simp only [hk]
      cases hu : unpack s.cfg s.fr with
      | error e => exact .inl ⟨e, by simp [reportErr]⟩
      | ok p => exact .inr ⟨p, by simp [resOk]⟩
    · exact .inr (.inl ⟨rfl, hk, by simp [hk, reportErr]⟩)

/-! ### Taking the host's next input -/

theorem takeInput_nil {s : State} (h : s.inputs = []) : takeInput s = (.idle, s) := by
  simp [takeInput, h]

theorem takeInput_cons {s : State} {i : HostInput} {rest : List HostInput}
    (h : s.inputs = i :: rest) : takeInput s = (i.event, { s with inputs := rest }) := by
  simp [takeInput, h]

end Sys2Proof.Machine
end

