-- ==== Sys2Proof/Laws/Exec.lean ====
section
/-! SUPPORT. What one command can do, said once for all instructions. -/

namespace Sys2Proof.Machine

/-- A buffer FR may take: at most 8 bytes, zero beyond (R26 I2, I3). -/
def Body.Good (b : Body) : Prop :=
  b.len.toNat ≤ 8 ∧ ∀ i : Fin 8, b.len.toNat ≤ i.val → b.data.get i = 0

/-- The payload fields a decoder of kind `k` may write with the outcome `e` over the frame `r` (R30). -/
structure PayloadOf (r : FrameReg) (e : DecErr) (k : MsgKind) (p : Payload) : Prop where
  zero_on_error : e ≠ .none → p = .zero
  emergency_fields : k = .emergency → p = .emergency p.status p.reason
  error_fields : k = .error → p = .error p.code
  data_fields : k ≠ .emergency → k ≠ .error → p = .window p.plen p.pb
  plen : p.plen.toNat ≤ 8 ∨ p.plen = r.len
  zero_beyond : ∀ i : Fin 8, p.plen.toNat ≤ i.val → p.pb.get i = 0

theorem two_good (b0 b1 : Byte) : (Body.two b0 b1).Good :=
  ⟨by rw [two_len]; decide, two_zero_beyond b0 b1⟩

theorem keep_good {n : BitVec 4} (w : Bytes8) (h : n.toNat ≤ 8) :
    (⟨n, w.keep n.toNat⟩ : Body).Good :=
  ⟨h, fun i hi => by simp [Nat.not_lt.mpr hi]⟩

theorem liftBody_good (n : BitVec 4) (w : Bytes8) : (liftBody n w).Good := by
  refine ⟨by rw [liftBody_len]; omega, fun i hi => ?_⟩
  rw [liftBody_len] at hi
  simp only [liftBody, Bytes8.get_keep]
  rw [if_neg (by omega)]

theorem payloadOf_zero (r : FrameReg) (e : DecErr) (k : MsgKind) : PayloadOf r e k .zero where
  zero_on_error _ := rfl
  emergency_fields _ := rfl
  error_fields _ := rfl
  data_fields _ _ := rfl
  plen := .inl (by decide)
  zero_beyond i _ := Bytes8.get_zero i

theorem emergencyBody_good {c : Config} {status : BitVec 1} {reason : BitVec 16} {b : Body}
    (h : emergencyBody c status reason = .ok b) : b.Good := by
  obtain ⟨-, h'⟩ | ⟨-, -, h'⟩ | ⟨-, -, -, h'⟩ := emergencyBody_cases c status reason <;> rw [h'] at h
  · cases h
  · cases h
  · injection h with h; subst h; exact two_good _ _

theorem writerBody_good {wrOk : Bool} {wrLen : BitVec 4} {w : Bytes8} {b : Body}
    (h : writerBody wrOk wrLen w = .ok b) : b.Good := by
  obtain ⟨-, h'⟩ | ⟨-, hl, h'⟩ := writerBody_cases wrOk wrLen w <;> rw [h'] at h
  · cases h
  · injection h with h; subst h; exact keep_good _ hl

theorem unpackEmergency_payload {c : Config} {r : FrameReg} {p : Payload}
    (h : unpackEmergency c r = .ok p) : PayloadOf r .none .emergency p := by
  unfold unpackEmergency at h
  dsimp only at h
  split at h
  · cases h
  · split at h
    · cases h
    · injection h with h
      subst h
      exact ⟨fun h => absurd rfl h, fun _ => rfl, nofun, fun h => absurd rfl h, .inl (Nat.zero_le 8),
        fun i _ => Bytes8.get_zero i⟩

theorem unpackError_payload {r : FrameReg} {p : Payload}
    (h : unpackError r = .ok p) : PayloadOf r .none .error p := by
  unfold unpackError at h
  injection h with h
  subst h
  exact ⟨fun h => absurd rfl h, nofun, fun _ => rfl, fun _ h => absurd rfl h,
    .inl (Nat.zero_le 8), fun i _ => Bytes8.get_zero i⟩

theorem unpackMessage_payload {c : Config} {r : FrameReg} {k : MsgKind} {p : Payload}
    (hk : k ≠ .emergency ∧ k ≠ .error) (h : unpackMessage c r = .ok p) : PayloadOf r .none k p := by
  unfold unpackMessage at h
  split at h
  · cases h
  · injection h with h
    subst h
    exact ⟨fun h => absurd rfl h, fun h => absurd h hk.1, fun h => absurd h hk.2, fun _ _ => rfl,
      .inl (Nat.le_refl 8), fun i hi => absurd i.isLt (Nat.not_lt.mpr hi)⟩

theorem unpackIdentifier_payload {c : Config} {r : FrameReg} {p : Payload}
    (h : unpackIdentifier c r = .ok p) : PayloadOf r .none .requestData p := by
  unfold unpackIdentifier at h
  split at h
  · cases h
  · injection h with h
    subst h
    exact ⟨fun h => absurd rfl h, nofun, nofun, fun _ _ => rfl, .inr rfl, fun i hi => by
      simp only [Payload.window] at hi ⊢
      simp [Nat.not_lt.mpr hi]⟩

/-- What a command can do to the state `s`. -/
inductive Effect (i : Instr) (s : State) : State → Prop where
  /-- Halted: nothing (R212). -/
  | halted (h : s.fault.f = true) : Effect i s s
  /-- A fault of R211, with an opcode that raises it. -/
  | fault (cause : FaultCause) (run : s.fault.f = false) (by_op : raisedBy cause i.opcode = true)
      (range : s.cfg.wf = true → cause ≠ .idRange) : Effect i s (raiseFault cause i.opcode s)
  /-- A frame written whole, by LIFT or a constructor (R27). -/
  | frame (id : BitVec 11) (b : Body) (run : s.fault.f = false) (by_op : i.opcode.toNat ≤ 4 ∨ i.opcode.toNat = 7)
      (good : b.Good) : Effect i s (writeFrame id b s)
  /-- A result written whole, by a decoder over a Frame (R28). -/
  | result (e : DecErr) (k : MsgKind) (p : Payload) (run : s.fault.f = false)
      (by_op : 8 ≤ i.opcode.toNat ∧ i.opcode.toNat ≤ 12) (valid : s.fr.valid = true) (payload : PayloadOf s.fr e k p) :
      Effect i s (writeRes e k p s)

theorem construct_effect {i : Instr} {op : BitVec 4} {k : MsgKind} {addr : Byte}
    {body : Except FaultCause Body} {s : State} (hi : i.opcode = op) (hop : op.toNat ≤ 4)
    (hgood : ∀ b, body = .ok b → b.Good)
    (hbad : ∀ cause, body = .error cause → raisedBy cause op = true ∧ cause ≠ .idRange) :
    Effect i s (construct k op addr body s) := by
  subst hi
  cases hf : s.fault.f
  · obtain ⟨cause, hp, h⟩ | ⟨id, cause, -, hb, h⟩ | ⟨id, b, -, hb, h⟩ := construct_cases
      (k := k) (op := i.opcode) (addr := addr) (body := body) hf <;> rw [h]
    · refine .fault cause hf ?_ fun hc hid => ?_
      · obtain rfl | rfl := packId_error hp <;> simp [raisedBy, hop]
      · subst hid
        by_cases ha : addr.toNat ≤ s.cfg.amask
        · rw [packId_kind hc k ha] at hp; cases hp
        · rw [packId_addrRange (Nat.lt_of_not_le ha)] at hp; cases hp
    · exact .fault cause hf (hbad cause hb).1 fun _ => (hbad cause hb).2
    · exact .frame id b hf (.inl hop) (hgood b hb)
  · rw [construct, unlessHalted_halted hf]; exact .halted hf

theorem decodeFrame_effect {i : Instr} {op : BitVec 4} {k : MsgKind}
    {unpack : Config → FrameReg → Except DecErr Payload} {s : State} (hi : i.opcode = op)
    (hlo : 8 ≤ op.toNat) (hhi : op.toNat ≤ 12)
    (hok : ∀ p, unpack s.cfg s.fr = .ok p → PayloadOf s.fr .none k p) :
    Effect i s (decodeFrame k op unpack s) := by
  subst hi
  cases hf : s.fault.f
  · obtain ⟨-, h⟩ | ⟨hv, -, h⟩ | ⟨e, hv, -, -, h⟩ | ⟨p, hv, -, hp, h⟩ := decodeFrame_cases
      (k := k) (op := i.opcode) (unpack := unpack) hf <;> rw [h]
    · exact .fault _ hf (by simp [raisedBy, hlo, hhi]) fun _ => nofun
    · exact .result _ k _ hf ⟨hlo, hhi⟩ hv (payloadOf_zero _ _ _)
    · exact .result e k _ hf ⟨hlo, hhi⟩ hv (payloadOf_zero _ _ _)
    · exact .result _ k p hf ⟨hlo, hhi⟩ hv (hok p hp)
  · rw [decodeFrame, unlessHalted_halted hf]; exact .halted hf

theorem writerBody_bad {op : BitVec 4} (h2 : 2 ≤ op.toNat) (h4 : op.toNat ≤ 4) {wrOk : Bool}
    {wrLen : BitVec 4} {w : Bytes8} (cause : FaultCause) (h : writerBody wrOk wrLen w = .error cause) :
    raisedBy cause op = true ∧ cause ≠ .idRange := by
  obtain ⟨-, h'⟩ | ⟨-, -, h'⟩ := writerBody_cases wrOk wrLen w <;> rw [h'] at h
  · injection h with h; subst h; exact ⟨by simp [raisedBy, h2, h4], nofun⟩
  · cases h

theorem reserved_effect {i : Instr} {op : BitVec 4} {s : State} (hi : i.opcode = op)
    (h : op.toNat ∈ [0x5, 0x6, 0xD, 0xE, 0xF]) : Effect i s (reservedCommand op s) := by
  subst hi
  cases hf : s.fault.f
  · rw [reservedCommand, unlessHalted_running hf]
    exact .fault _ hf (decide_eq_true h) fun _ => nofun
  · rw [reservedCommand, unlessHalted_halted hf]; exact .halted hf

/-- Everything a command can do: the inversion of `exec`, for every instruction. -/
theorem exec_effect {i : Instr} {s t : State} (h : exec i s = .next t) : Effect i s t := by
  cases i with
  | encEmg addr status reason =>
    injection h with h; subst h
    refine construct_effect rfl (by decide)
      (fun b hb => emergencyBody_good hb) fun cause hc => ?_
    obtain ⟨-, h'⟩ | ⟨-, -, h'⟩ | ⟨-, -, -, h'⟩ := emergencyBody_cases s.cfg status reason <;>
      rw [h'] at hc <;> cases hc <;> exact ⟨by decide, nofun⟩
  | encErr addr code =>
    injection h with h; subst h
    refine construct_effect rfl (by decide) (fun b hb => ?_) nofun
    injection hb with hb; subst hb; exact two_good _ _
  | encSent addr ok len w =>
    injection h with h; subst h
    exact construct_effect rfl (by decide) (fun b hb => writerBody_good hb)
      (writerBody_bad (by decide) (by decide))
  | encReq addr ok len w =>
    injection h with h; subst h
    exact construct_effect rfl (by decide) (fun b hb => writerBody_good hb)
      (writerBody_bad (by decide) (by decide))
  | encSet addr ok len w =>
    injection h with h; subst h
    exact construct_effect rfl (by decide) (fun b hb => writerBody_good hb)
      (writerBody_bad (by decide) (by decide))
  | lift ext rtr id len w =>
    injection h with h; subst h
    cases hf : s.fault.f
    · obtain ⟨cause, hp, h⟩ | ⟨id', -, h⟩ := liftFrame_cases (op := Opcode.lift) (genExt := ext)
        (genId := id) (body := liftBody len w) hf <;> rw [h]
      · have hc : raisedBy cause Opcode.lift = true ∧ cause ≠ .idRange := by
          obtain ⟨-, -, h'⟩ | ⟨-, -, -, h'⟩ | ⟨-, -, h'⟩ := liftId_cases s.cfg ext id <;>
            rw [h'] at hp <;> cases hp <;> decide
        exact Effect.fault (i := .lift ext rtr id len w) cause hf hc.1 fun _ => hc.2
      · exact .frame (i := .lift ext rtr id len w) id' _ hf (.inr rfl) (liftBody_good len w)
    · rw [liftFrame, unlessHalted_halted hf]; exact .halted hf
  | decEmg =>
    injection h with h; subst h
    exact decodeFrame_effect rfl (by decide) (by decide) fun _ => unpackEmergency_payload
  | decErr =>
    injection h with h; subst h
    exact decodeFrame_effect rfl (by decide) (by decide) fun _ => unpackError_payload
  | decSent =>
    injection h with h; subst h
    exact decodeFrame_effect rfl (by decide) (by decide) fun _ =>
      unpackMessage_payload ⟨nofun, nofun⟩
  | decReq =>
    injection h with h; subst h
    exact decodeFrame_effect rfl (by decide) (by decide) fun _ => unpackIdentifier_payload
  | decSet =>
    injection h with h; subst h
    exact decodeFrame_effect rfl (by decide) (by decide) fun _ =>
      unpackMessage_payload ⟨nofun, nofun⟩
  | reserved5 => injection h with h; subst h; exact reserved_effect rfl (by decide)
  | reserved6 => injection h with h; subst h; exact reserved_effect rfl (by decide)
  | reservedD => injection h with h; subst h; exact reserved_effect rfl (by decide)
  | reservedE => injection h with h; subst h; exact reserved_effect rfl (by decide)
  | reservedF => injection h with h; subst h; exact reserved_effect rfl (by decide)

end Sys2Proof.Machine
end

