-- ==== Sys2Proof/Laws/PerInstr.lean ====
section
/-! SUPPORT. The family RoundTrip: what decoding reads back from each instruction's own bundle. -/

namespace Sys2Proof.Laws.RoundTrip

/-- The bundle of `i` decodes to `i`, with every operand at every value of its port. -/
def Statement (i : Instr) : Prop := decode (encode i) = i

theorem encEmg (addr : Byte) (status : BitVec 1) (reason : BitVec 16) :
    Statement (.encEmg addr status reason) := rfl
theorem encErr (addr : Byte) (code : BitVec 16) : Statement (.encErr addr code) := rfl
theorem encSent (addr : Byte) (wrOk : Bool) (wrLen : BitVec 4) (wrBytes : Bytes8) :
    Statement (.encSent addr wrOk wrLen wrBytes) := rfl
theorem encReq (addr : Byte) (wrOk : Bool) (wrLen : BitVec 4) (wrBytes : Bytes8) :
    Statement (.encReq addr wrOk wrLen wrBytes) := rfl
theorem encSet (addr : Byte) (wrOk : Bool) (wrLen : BitVec 4) (wrBytes : Bytes8) :
    Statement (.encSet addr wrOk wrLen wrBytes) := rfl
theorem lift (genExt genRtr : Bool) (genId : BitVec 29) (genLen : BitVec 4) (genData : Bytes8) :
    Statement (.lift genExt genRtr genId genLen genData) := rfl
theorem decEmg : Statement .decEmg := rfl
theorem decErr : Statement .decErr := rfl
theorem decSent : Statement .decSent := rfl
theorem decReq : Statement .decReq := rfl
theorem decSet : Statement .decSet := rfl
theorem reserved5 : Statement .reserved5 := rfl
theorem reserved6 : Statement .reserved6 := rfl
theorem reservedD : Statement .reservedD := rfl
theorem reservedE : Statement .reservedE := rfl
theorem reservedF : Statement .reservedF := rfl

end Sys2Proof.Laws.RoundTrip
end

