-- ==== Sys2Proof/Laws/Step.lean ====
section
/-! SUPPORT. What one step can do: the host's oldest input, and the effect of it. -/

namespace Sys2Proof.Machine

/-- The inversion of `step`: idle, reset, or the effect of one command. -/
theorem step_cases {s t : State} (h : step s = .next t) :
    (s.inputs = [] ∧ t = s) ∨
    ∃ i rest, s.inputs = i :: rest ∧
      ((i.rst = true ∧ t = resetBlock { s with inputs := rest }) ∨
       (i.rst = false ∧ i.cmd = none ∧ t = { s with inputs := rest }) ∨
       (∃ c, i.rst = false ∧ i.cmd = some c ∧ exec (decode c) { s with inputs := rest } = .next t)) := by
  cases hin : s.inputs with
  | nil =>
    rw [step, takeInput_nil hin] at h
    injection h with h
    exact .inl ⟨rfl, h.symm⟩
  | cons i rest =>
    refine .inr ⟨i, rest, rfl, ?_⟩
    rw [step, takeInput_cons hin] at h
    obtain ⟨rst, cmd⟩ := i
    cases rst
    · cases cmd with
      | none => injection h with h; exact .inr (.inl ⟨rfl, rfl, h.symm⟩)
      | some c => exact .inr (.inr ⟨c, rfl, rfl, h⟩)
    · injection h with h; exact .inl ⟨rfl, h.symm⟩

/-- A step on a presented command runs the decoded instruction. -/
theorem step_presentCommand (c : Command) (s : State) :
    step (presentCommand c s) = exec (decode c) s := rfl

end Sys2Proof.Machine
end

