-- ==== Sys2Proof/Tests/Slice0.lean ====
section
/-! SUPPORT. The model's own tests. Expected values are those of spec/95_test_vectors.md (the vector is named)
or read from the rule named; the configurations are RC and RC' of 92_eei_decisions D32. -/

namespace Sys2Proof.Tests

open Sys2Proof.Machine Sys2Proof.Spec

/-! ### Small states -/

/-- The reset state in RC. -/
def s0 : State := State.resetWith Config.rc

/-- The reset state in RC'. -/
def s0' : State := State.resetWith Config.rcPrime

/-- The state a command leaves. -/
def after (i : Instr) (s : State) : State :=
  match exec i s with
  | .next t => t
  | .fault _ => s
  | .refused _ => s

/-- The first bytes of a buffer, the rest 0x00. -/
def bytes (bs : List Nat) : Bytes8 := bytesOf bs

/-- `LIFT.STD id, [bs]` on a state. -/
def lifted (id : BitVec 29) (bs : List Nat) (s : State) : State :=
  after (.lift false false id (BitVec.ofNat 4 bs.length) (bytes bs)) s

/-- A state that is halted. -/
def sHalt : State := after .reserved5 s0

/-- One Frame of each kind, and one of kind OTHER. -/
def sEmg : State := lifted 0x005 [0x92, 0x34] s0
def sErr : State := lifted 0x085 [0x12, 0x34, 0x56, 0x78, 0x9A, 0xBC, 0xDE, 0xF0] s0
def sSent : State := lifted 0x110 [0x11, 0x22, 0x33] s0
def sReq : State := lifted 0x185 [0xFF, 0x01] s0
def sSet : State := lifted 0x200 [1, 2, 3, 4, 5, 6, 7, 8] s0
def sOther : State := lifted 0x7FF [] s0

/-- Operand ports with a value of its own on each. -/
def ports : Operands :=
  ⟨0x21, 1, 0x4321, 0xABCD, true, 3, bytes [1, 2, 3], true, true, 0x1ABCDE, 5, bytes [9, 8, 7, 6, 5]⟩

/-! ### Well-formedness: each check refuses an ill-formed term (R8, R7, R36, R77) -/

theorem test_wf_w1 : ({ Config.rc with ab := 9 }).w1 = false ∧ ({ Config.rc with ab := 9 }).wf = false := by
  decide
theorem test_wf_w2 : ({ Config.rc with codes := ⟨0, 1, 2, 2, 4⟩ }).w2 = false := by decide
theorem test_wf_w3 : ({ Config.rc with codes := ⟨0, 1, 2, 3, 16⟩ }).w3 = false := by decide
theorem test_wf_w4 : ({ Config.rc with ftRows := [(2, .msg .setData)] }).w4 = false := by decide
theorem test_wf_latency : ({ Config.rc with latency := 0 }).latencyOk = false := by decide
theorem test_wf_all : ({ Config.rc with codes := ⟨0, 1, 2, 2, 4⟩ }).wf = false ∧
    ({ Config.rc with codes := ⟨0, 1, 2, 3, 16⟩ }).wf = false ∧
    ({ Config.rc with ftRows := [(2, .msg .setData)] }).wf = false ∧
    ({ Config.rc with latency := 0 }).wf = false := by decide
theorem test_wf_asm_emg : (Asm.encEmg 256 0 0).wf = false ∧ (Asm.encEmg 0 2 0).wf = false ∧
    (Asm.encEmg 0 0 65536).wf = false ∧ (Asm.encErr 256 0).wf = false ∧
    (Asm.encErr 0 65536).wf = false := by decide
theorem test_wf_asm_data : (Asm.encSent 256 1 0 []).wf = false ∧ (Asm.encSent 0 2 0 []).wf = false ∧
    (Asm.encReq 0 1 16 []).wf = false ∧ (Asm.encSet 0 1 8 [1, 2, 3, 4, 5, 6, 7, 8, 9]).wf = false ∧
    (Asm.encReq 0 1 1 [256]).wf = false := by decide
theorem test_wf_asm_lift : (Asm.lift 2 0 0 0 []).wf = false ∧ (Asm.lift 0 2 0 0 []).wf = false ∧
    (Asm.lift 0 0 0x20000000 0 []).wf = false ∧ (Asm.lift 0 0 0 16 []).wf = false ∧
    (Asm.lift 0 0 0 0 [256]).wf = false := by decide
theorem test_wf_asm_pseudo : (Asm.sentOf 256 []).wf = false ∧ (Asm.reqOf 0 [256]).wf = false ∧
    (Asm.setOf 0 [1, 2, 3, 4, 5, 6, 7, 8, 9]).wf = false ∧ (Asm.liftStd 0x20000000 []).wf = false ∧
    (Asm.liftExt 0 [256]).wf = false := by decide

/-! ### Decoding: the bits of R72, written out, with the ports of R74 -/

theorem test_decode_encEmg : decode ⟨0b0000#4, ports⟩ = .encEmg 0x21 1 0x4321 := by decide
theorem test_decode_encErr : decode ⟨0b0001#4, ports⟩ = .encErr 0x21 0xABCD := by decide
theorem test_decode_encSent : decode ⟨0b0010#4, ports⟩ = .encSent 0x21 true 3 (bytes [1, 2, 3]) := by
  decide
theorem test_decode_encReq : decode ⟨0b0011#4, ports⟩ = .encReq 0x21 true 3 (bytes [1, 2, 3]) := by decide
theorem test_decode_encSet : decode ⟨0b0100#4, ports⟩ = .encSet 0x21 true 3 (bytes [1, 2, 3]) := by decide
theorem test_decode_reserved5 : decode ⟨0b0101#4, ports⟩ = .reserved5 := by decide
theorem test_decode_reserved6 : decode ⟨0b0110#4, ports⟩ = .reserved6 := by decide
theorem test_decode_lift : decode ⟨0b0111#4, ports⟩ =
    .lift true true 0x1ABCDE 5 (bytes [9, 8, 7, 6, 5]) := by decide
theorem test_decode_decEmg : decode ⟨0b1000#4, ports⟩ = .decEmg := by decide
theorem test_decode_decErr : decode ⟨0b1001#4, ports⟩ = .decErr := by decide
theorem test_decode_decSent : decode ⟨0b1010#4, ports⟩ = .decSent := by decide
theorem test_decode_decReq : decode ⟨0b1011#4, ports⟩ = .decReq := by decide
theorem test_decode_decSet : decode ⟨0b1100#4, ports⟩ = .decSet := by decide
theorem test_decode_reservedD : decode ⟨0b1101#4, ports⟩ = .reservedD := by decide
theorem test_decode_reservedE : decode ⟨0b1110#4, ports⟩ = .reservedE := by decide
theorem test_decode_reservedF : decode ⟨0b1111#4, ports⟩ = .reservedF := by decide
/-- A word of the opcode table, and the step that runs it first after reset (R231, R171). -/
theorem test_tableWord : decodeTableWord 8 0x9 = some .decErr ∧ decodeTableWord 4 0xC = some .decSet := by
  decide
theorem test_fetchWord_after_reset : step (State.reset.withFetchWord 8 0x9) =
    .next (faulted .noFrame 0x9 State.reset) := rfl

/-! ### Text (R77, R78) -/

/-- S5's way of writing a list, and E15's. -/
theorem test_asm_lists : assembleLine "LIFT.STD 0x005, [0xC0 0x00]" =
      some (.lift false false 0x005 2 (bytes [0xC0, 0x00])) ∧
    assembleLine "ENC.REQ 0x7F, [42]" = some (.encReq 0x7F true 1 (bytes [0x42])) := by decide
theorem test_asm_refuses : assembleLine "ENC.ERR 0x100, 0x0001" = none ∧
    assembleLine "DEC.ERR 1" = none ∧ assembleLine "ENC.ERR 1 2" = none := by decide
/-- L5, and the first line of P1 with its comment. -/
theorem test_asm_vectors : assembleLine "LIFT 0,0,0x110,2,[AA BB CC DD]" =
      some (.lift false false 0x110 2 (bytes [0xAA, 0xBB, 0xCC, 0xDD])) ∧
    assembleLine "ENC.EMG 0x05, 1, 0x1234     ; op 0000  addr=0x05 status=1 reason=0x1234" =
      some (.encEmg 0x05 1 0x1234) := by decide

/-! ### Identifiers -/

/-- T15 and T16: AB = 0 and AB = 8. -/
theorem test_packId_edges : packId { Config.rc with ab := 0 } 0x55 0 = .ok 0x055 ∧
    packId { Config.rc with ab := 0 } 0x55 1 = .error .addrRange ∧
    packId { Config.rc with ab := 8 } 4 0xFF = .ok 0x4FF := by decide
/-- T7, T8, T9. -/
theorem test_packId_rc : packId Config.rc 0xF 0x7F = .ok 0x7FF ∧
    packId Config.rc 2 0x80 = .error .addrRange ∧ packId Config.rc 0x10 0 = .error .idRange := by decide
/-- T11 to T14. -/
theorem test_classify_rc : classify Config.rc 0x17F = .msg .sentData ∧
    classify Config.rc 0x27F = .msg .setData ∧ classify Config.rc 0x280 = .other ∧
    classify Config.rc 0x7FF = .other := by decide

/-! ### Constructors -/

/-- E1. -/
theorem test_encEmg : (after (.encEmg 0x05 1 0x1234) s0).fr =
    ⟨true, 0x005, 2, bytes [0x92, 0x34], .msg .emergency⟩ := by decide
/-- E8: the identifier step comes first. -/
theorem test_encEmg_order : after (.encEmg 0x80 1 0x8000) s0 = faulted .addrRange 0x0 s0 := by decide
/-- X1. -/
theorem test_encErr : (after (.encErr 0x05 0xABCD) s0).fr =
    ⟨true, 0x085, 2, bytes [0xAB, 0xCD], .msg .error⟩ := by decide
/-- X4. -/
theorem test_encErr_addr : after (.encErr 0x80 0x0001) s0 = faulted .addrRange 0x1 s0 := by decide
/-- E11: stray bytes are dropped. -/
theorem test_encSent : (after (.encSent 0x10 true 3 (bytes [0x11, 0x22, 0x33, 0x44, 0x55])) s0).fr =
    ⟨true, 0x110, 3, bytes [0x11, 0x22, 0x33], .msg .sentData⟩ := by decide
/-- E14. -/
theorem test_encSent_writer : after (.encSent 0x10 false 2 (bytes [1, 2])) s0 =
    faulted .payloadSize 0x2 s0 := by decide
/-- E15. -/
theorem test_encReq : (after (.encReq 0x7F true 1 (bytes [0x42])) s0).fr =
    ⟨true, 0x1FF, 1, bytes [0x42], .msg .requestData⟩ := by decide
/-- R152 with the bound of R150: wr_len = 9. -/
theorem test_encReq_length : after (.encReq 0x7F true 9 (bytes [])) s0 = faulted .payloadSize 0x3 s0 := by
  decide
/-- E16. -/
theorem test_encSet : (after (.encSet 0x00 true 8 (bytes [1, 2, 3, 4, 5, 6, 7, 8])) s0).fr =
    ⟨true, 0x200, 8, bytes [1, 2, 3, 4, 5, 6, 7, 8], .msg .setData⟩ := by decide
/-- E17: ADDR_RANGE, not PAYLOAD_SIZE. -/
theorem test_encSet_order : after (.encSet 0x80 false 9 (bytes [])) s0 = faulted .addrRange 0x4 s0 := by
  decide

/-! ### LIFT -/

/-- L4: the length is clamped. -/
theorem test_lift_clamp : (after (.lift false false 0x110 12 (bytes [1, 2, 3, 4, 5, 6, 7, 8])) s0).fr =
    ⟨true, 0x110, 8, bytes [1, 2, 3, 4, 5, 6, 7, 8], .msg .sentData⟩ := by decide
/-- L7 and L8: a wide extended identifier under both policies. -/
theorem test_lift_wide : after (.lift true false 0x1ABCDE 0 (bytes [])) s0 = faulted .extIdWide 0x7 s0 ∧
    (after (.lift true false 0x1ABCDE 0 (bytes []))
      (State.resetWith { Config.rc with extWide := .low11 })).fr =
      ⟨true, 0x4DE, 0, bytes [], .other⟩ := by decide

/-! ### Decoders -/

/-- V1. -/
theorem test_decEmg : (after .decEmg (after (.encEmg 0x05 1 0x1234) s0)).res =
    ⟨true, .none, .msg .emergency, 1, 0x1234, 0, 0, .zero⟩ := by decide
/-- V6: both fields invalid, and the status wins. -/
theorem test_decEmg_order : (after .decEmg (lifted 0x005 [0x7F, 0xFF] s0')).res =
    ⟨true, .invalidStatus, .msg .emergency, 0, 0, 0, 0, .zero⟩ := by decide
/-- V10. -/
theorem test_decErr : (after .decErr sErr).res = ⟨true, .none, .msg .error, 0, 0, 0x1234, 0, .zero⟩ := by
  decide
/-- V8: no length check. -/
theorem test_decErr_empty : (after .decErr (lifted 0x085 [] s0)).res =
    ⟨true, .none, .msg .error, 0, 0, 0x0000, 0, .zero⟩ := by decide
/-- V11. -/
theorem test_decSent : (after .decSent sSent).res =
    ⟨true, .none, .msg .sentData, 0, 0, 0, 8, bytes [0x11, 0x22, 0x33]⟩ := by decide
/-- V13. -/
theorem test_decSent_parse : (after .decSent (lifted 0x100 [0xFF, 0x00] s0)).res =
    ⟨true, .payloadParse, .msg .sentData, 0, 0, 0, 0, .zero⟩ := by decide
/-- V15. -/
theorem test_decReq : (after .decReq sReq).res =
    ⟨true, .none, .msg .requestData, 0, 0, 0, 2, bytes [0xFF, 0x01]⟩ := by decide
/-- V14. -/
theorem test_decReq_empty : (after .decReq (lifted 0x180 [] s0)).res =
    ⟨true, .payloadParse, .msg .requestData, 0, 0, 0, 0, .zero⟩ := by decide
/-- V18. -/
theorem test_decSet : (after .decSet sSet).res =
    ⟨true, .none, .msg .setData, 0, 0, 0, 8, bytes [1, 2, 3, 4, 5, 6, 7, 8]⟩ := by decide
/-- V12: a SentData Frame is no SetData Frame. -/
theorem test_decSet_kind : (after .decSet sSent).res =
    ⟨true, .wrongKind, .msg .setData, 0, 0, 0, 0, .zero⟩ := by decide

/-! ### Reserved opcodes, the halted state, reset, ports -/

/-- K4. -/
theorem test_reserved5 : after .reserved5 s0 = faulted .illegalCommand 0x5 s0 := by decide
/-- R73 and R211. -/
theorem test_reserved_others : (after .reserved6 s0).fault = ⟨true, .illegalCommand, 0x6⟩ ∧
    (after .reservedD s0).fault = ⟨true, .illegalCommand, 0xD⟩ ∧
    (after .reservedE s0).fault = ⟨true, .illegalCommand, 0xE⟩ ∧
    (after .reservedF s0).fault = ⟨true, .illegalCommand, 0xF⟩ := by decide
/-- K5 and K8. -/
theorem test_halted : after (.encErr 0x05 0xABCD) sHalt = sHalt ∧ after .reservedF sHalt = sHalt := by
  decide
/-- K6: reset clears FAULT, and a command presented with rst is ignored. -/
theorem test_reset_input :
    step { sHalt with inputs := [⟨true, some (encode (.encErr 0x05 0xABCD))⟩] } = .next s0 := rfl
/-- T17 and S4. -/
theorem test_ports : (after (.encErr 0x05 0) s0).out.outType = 0x001 ∧
    (after (.encErr 0x05 0) s0).out.outAddr = 0x05 ∧
    (after (.lift true true 0x110 0 (bytes [])) s0).out.outExt = 0 := by decide
/-- R240: the bytes taken to the transmit path are the first out_len. -/
theorem test_transmit : sSent.out.transmit = some ⟨0x110, 0, 0, [0x11, 0x22, 0x33]⟩ ∧
    s0.out.transmit = none := by decide
/-- R78, R120 and R247: a run of two commands by steps. -/
theorem test_run : (State.loaded Config.rc [encode (.encErr 0x05 0xABCD), encode .decErr]).runAll =
    .next (after .decErr (after (.encErr 0x05 0xABCD) s0)) := rfl

/-! ### Witnesses: the hypotheses of each statement are met together, at boundary values where there are
several clauses -/

/-- A state in RC with EXT_WIDE_POLICY = LOW11. -/
def sLow11 : State := State.resetWith { Config.rc with extWide := .low11 }

/-- RC with AB = 8, the largest address field (T16). -/
def sAb8 : State := State.resetWith { Config.rc with ab := 8 }

/-- A state with the command of an instruction presented. -/
def presented (i : Instr) (s : State) : State := { s with inputs := [⟨false, some (encode i)⟩] }

theorem witness_ResetRestoresEveryRegister :
    ({ sHalt with inputs := [⟨true, none⟩] } : State).inputs = ⟨true, none⟩ :: [] ∧
    step { sHalt with inputs := [⟨true, none⟩] } = .next s0 ∧ sHalt.fault.f = true ∧
    s0.fault.f = false := ⟨rfl, rfl, rfl, rfl⟩
theorem witness_StepRunsTheDecodedCommand :
    (presented .decErr sErr).inputs = ⟨false, some (encode .decErr)⟩ :: [] ∧
    ({ sErr with inputs := [⟨false, none⟩] } : State).inputs = ⟨false, none⟩ :: [] ∧ sErr.inputs = [] :=
  ⟨rfl, rfl, rfl⟩
theorem witness_OpcodeMapDecodes : encKind (.encSet 0 true 0 .zero) = some .setData ∧
    decKind .decEmg = some .emergency := by decide
/-- Two different bundles that ENC.ERR reads alike. -/
theorem witness_UnreadPortsAffectNothing :
    (⟨0x1, ports⟩ : Command) ≠ ⟨0x1, { ports with status := 0, genId := 0, wrLen := 8 }⟩ ∧
    readPortsAgree 0x1 ports { ports with status := 0, genId := 0, wrLen := 8 } := by
  refine ⟨by decide, ?_⟩
  unfold readPortsAgree
  decide
theorem witness_PseudoCommandsExpand : [0, 255, 1, 2, 3, 4, 5, 255].length ≤ 8 ∧
    (∀ b ∈ [0, 255, 1, 2, 3, 4, 5, 255], b < 256) ∧ 255 < 256 ∧ 2 ^ 29 - 1 < 2 ^ 29 := by decide
theorem witness_PackIdComposesAndSplits : Config.rc.wf = true ∧ (0x7F#8).toNat ≤ Config.rc.amask := by
  decide
theorem witness_PackIdRefusesAWideAddress : 2 ^ Config.rc.ab - 1 < (0x80#8).toNat := by decide
theorem witness_PackIdRefusesAWideIdentifier : Config.rc.ab ≤ 8 ∧ (0x7F#8).toNat ≤ Config.rc.amask ∧
    0x7FF < ((0x10#8).toNat <<< Config.rc.ab ||| (0x7F#8).toNat) ∧ Config.rc.wf = true := by decide
theorem witness_ClassifyReadsTheTypeFieldOnly :
    (0x17F#11).toNat / 2 ^ Config.rc.ab = (0x100#11).toNat / 2 ^ Config.rc.ab := by decide
theorem witness_EncEmgBuildsTheFrame : s0.cfg.wf = true ∧ s0.fault.f = false ∧
    (0x7F#8).toNat ≤ s0.cfg.amask ∧ s0.cfg.statusValid (statusByteOf 1) = true ∧
    (0x3FFF#16).toNat < 0x8000 ∧ s0.cfg.reasonValid (BitVec.ofNat 15 (0x3FFF#16).toNat) = true := by decide
theorem witness_EncErrBuildsTheFrame : s0.cfg.wf = true ∧ s0.fault.f = false ∧
    (0x7F#8).toNat ≤ s0.cfg.amask := by decide
theorem witness_EncDataBuildsTheFrame : s0.cfg.wf = true ∧ s0.fault.f = false ∧
    (0x00#8).toNat ≤ s0.cfg.amask ∧ (8#4).toNat ≤ 8 := by decide
theorem witness_EncEmgRefusesBadStatus : s0'.cfg.wf = true ∧ s0'.fault.f = false ∧
    (0x05#8).toNat ≤ s0'.cfg.amask ∧ s0'.cfg.statusValid (statusByteOf 0) = false := by decide
theorem witness_EncEmgRefusesBadReason : s0.cfg.wf = true ∧ s0.fault.f = false ∧
    (0x05#8).toNat ≤ s0.cfg.amask ∧ s0.cfg.statusValid (statusByteOf 0) = true ∧
    0x8000 ≤ (0x8000#16).toNat ∧ s0.cfg.reasonValid (BitVec.ofNat 15 (0x4000#16).toNat) = false := by decide
theorem witness_EncDataRefusesAFailedWriter : s0.cfg.wf = true ∧ s0.fault.f = false ∧
    (0x05#8).toNat ≤ s0.cfg.amask ∧ 8 < (9#4).toNat := by decide
theorem witness_ConstructorsRefuseAWideAddress : s0.fault.f = false ∧
    encKind (.encSet 0x80 false 9 .zero) = some .setData ∧
    (Instr.encSet 0x80 false 9 .zero).ports.addr = 0x80 ∧ s0.cfg.amask < (0x80#8).toNat := by decide
theorem witness_LiftBuildsTheFrame : s0.fault.f = false ∧ (0x7FF#29).toNat ≤ 0x7FF ∧
    sLow11.fault.f = false ∧ sLow11.cfg.extWide = .low11 := by decide
theorem witness_LiftChecksStandardIdentifiers : s0.fault.f = false ∧ (0x7FF#29).extractLsb' 11 18 = 0 ∧
    (0x800#29).extractLsb' 11 18 ≠ 0 := by decide
theorem witness_LiftWideIdentifierFollowsThePolicy : s0.fault.f = false ∧ s0.cfg.extWide = .fault ∧
    sLow11.fault.f = false ∧ sLow11.cfg.extWide = .low11 ∧ 0x7FF < (0x800#29).toNat := by decide
theorem witness_LiftThenClassifySentData : s0.cfg.wf = true ∧ s0.fault.f = false ∧
    (0x7F#8).toNat ≤ s0.cfg.amask ∧ packId s0.cfg (s0.cfg.typeCode .sentData) 0x7F = .ok 0x17F := by decide
theorem witness_DecEmgReadsStatusAndReason : sEmg.fault.f = false ∧ sEmg.fr.valid = true ∧
    sEmg.fr.kind = .msg .emergency ∧ (1#1).toNat = sEmg.fr.data.b0.toNat / 128 ∧
    (0x1234#15).toNat = sEmg.fr.data.b0.toNat % 128 * 256 + sEmg.fr.data.b1.toNat ∧
    sEmg.cfg.statusValid (statusByteOf 1) = true ∧ sEmg.cfg.reasonValid 0x1234 = true := by decide
/-- Both fields invalid (V6). -/
theorem witness_DecEmgErrorOrder_status : (lifted 0x005 [0x7F, 0xFF] s0').fault.f = false ∧
    (lifted 0x005 [0x7F, 0xFF] s0').fr.valid = true ∧
    (lifted 0x005 [0x7F, 0xFF] s0').fr.kind = .msg .emergency ∧
    (0#1).toNat = (lifted 0x005 [0x7F, 0xFF] s0').fr.data.b0.toNat / 128 ∧
    (0x7FFF#15).toNat = (lifted 0x005 [0x7F, 0xFF] s0').fr.data.b0.toNat % 128 * 256 +
      (lifted 0x005 [0x7F, 0xFF] s0').fr.data.b1.toNat ∧
    s0'.cfg.statusValid (statusByteOf 0) = false ∧ s0'.cfg.reasonValid 0x7FFF = false := by decide
/-- S5: the least reason outside RC's catalog. -/
theorem witness_DecEmgErrorOrder_reason : (lifted 0x005 [0xC0, 0x00] s0).fault.f = false ∧
    (lifted 0x005 [0xC0, 0x00] s0).fr.valid = true ∧
    (lifted 0x005 [0xC0, 0x00] s0).fr.kind = .msg .emergency ∧
    (1#1).toNat = (lifted 0x005 [0xC0, 0x00] s0).fr.data.b0.toNat / 128 ∧
    (0x4000#15).toNat = (lifted 0x005 [0xC0, 0x00] s0).fr.data.b0.toNat % 128 * 256 +
      (lifted 0x005 [0xC0, 0x00] s0).fr.data.b1.toNat ∧
    s0.cfg.statusValid (statusByteOf 1) = true ∧ s0.cfg.reasonValid 0x4000 = false := by decide
theorem witness_DecErrReadsTheCode : sErr.fault.f = false ∧ sErr.fr.valid = true ∧
    sErr.fr.kind = .msg .error ∧
    (0x1234#16).toNat = sErr.fr.data.b0.toNat * 256 + sErr.fr.data.b1.toNat := by decide
theorem witness_DecMessageTakesTheFullWindow : sSent.fault.f = false ∧ sSent.fr.valid = true ∧
    sSent.fr.kind = .msg .sentData ∧ sSent.cfg.parseMsgOk sSent.fr.data = true ∧
    sSet.fault.f = false ∧ sSet.fr.valid = true ∧ sSet.fr.kind = .msg .setData ∧
    sSet.cfg.parseMsgOk sSet.fr.data = true := by decide
theorem witness_DecMessage_rejected : (lifted 0x100 [0xFF] s0).fr.kind = .msg .sentData ∧
    (lifted 0x205 [0xFF] s0).fr.kind = .msg .setData ∧ (lifted 0x205 [0xFF] s0).fault.f = false ∧
    (lifted 0x205 [0xFF] s0).fr.valid = true ∧ s0.cfg.parseMsgOk (bytes [0xFF]) = false := by decide
theorem witness_DecReqTakesTheLengthPrefix : sReq.fault.f = false ∧ sReq.fr.valid = true ∧
    sReq.fr.kind = .msg .requestData ∧ sReq.cfg.parseDidOk sReq.fr.len sReq.fr.data = true ∧
    (∀ i : Fin 8, i.val < (1#4).toNat → (bytes [7, 1]).get i = (bytes [7, 2]).get i) := by decide
theorem witness_DecReq_rejected : (lifted 0x180 [] s0).fault.f = false ∧
    (lifted 0x180 [] s0).fr.valid = true ∧ (lifted 0x180 [] s0).fr.kind = .msg .requestData ∧
    s0.cfg.parseDidOk (lifted 0x180 [] s0).fr.len (lifted 0x180 [] s0).fr.data = false := by decide
theorem witness_DecodersCheckTheKindFirst : sSent.fault.f = false ∧ sSent.fr.valid = true ∧
    decKind .decSet = some .setData ∧ sSent.fr.kind ≠ .msg .setData := by decide
theorem witness_DecodersNeedAFrame : s0.fault.f = false ∧ s0.fr.valid = false ∧
    decKind .decSent = some .sentData := by decide
theorem witness_DecodeErrorWritesZeroPayload : sSent.fault.f = false ∧ sSent.fr.valid = true ∧
    decKind .decErr = some .error ∧ exec .decErr sSent = .next (after .decErr sSent) ∧
    (after .decErr sSent).res.err ≠ .none := ⟨by decide, by decide, rfl, rfl, by decide⟩
theorem witness_DecodeErrorsByCommand :
    (exec .decEmg sSent = .next (after .decEmg sSent) ∧ (after .decEmg sSent).res ≠ sSent.res) ∧
    (exec .decErr sErr = .next (after .decErr sErr) ∧ (after .decErr sErr).res ≠ sErr.res) ∧
    (exec .decReq sReq = .next (after .decReq sReq) ∧ (after .decReq sReq).res ≠ sReq.res) :=
  ⟨⟨rfl, by decide⟩, ⟨rfl, by decide⟩, ⟨rfl, by decide⟩⟩
theorem witness_DecodeDoesNotHaltTheBlock : sEmg.fault.f = false ∧ sEmg.fr.valid = true ∧
    decKind .decReq = some .requestData := by decide
/-- Two states with the same FR and different RES. -/
theorem witness_DecodersArePureInTheFrame : (decKind .decSent).isSome = true ∧
    sSent.res ≠ (after .decErr sSent).res ∧ sSent.cfg = (after .decErr sSent).cfg ∧
    sSent.fr = (after .decErr sSent).fr ∧ sSent.fault.f = false ∧ (after .decErr sSent).fault.f = false ∧
    sSent.fr.valid = true ∧ exec .decSent sSent = .next (after .decSent sSent) ∧
    exec .decSent (after .decErr sSent) = .next (after .decSent (after .decErr sSent)) :=
  ⟨rfl, by decide, by decide, by decide, by decide, by decide, by decide, rfl, rfl⟩
theorem witness_DecodersCheckNoLength : Instr.decErr ∈ [Instr.decEmg, .decErr, .decSent, .decSet] ∧
    exec .decErr sErr = .next (after .decErr sErr) ∧
    exec .decErr { sErr with fr := { sErr.fr with len := 0 } } =
      .next (after .decErr { sErr with fr := { sErr.fr with len := 0 } }) := ⟨by decide, rfl, rfl⟩
theorem witness_OtherKindFailsEveryDecoder : sOther.fault.f = false ∧ sOther.fr.valid = true ∧
    sOther.fr.kind = .other ∧ decKind .decReq = some .requestData ∧ s0.cfg.wf = true ∧
    exec (.lift false false 0x7FF 0 (bytes [])) s0 = .next sOther ∧ sOther.fr ≠ s0.fr :=
  ⟨by decide, by decide, by decide, rfl, by decide, rfl, by decide⟩
theorem witness_ReservedOpcodesAreIllegal : (0xF#4).toNat ∈ [0x5, 0x6, 0xD, 0xE, 0xF] ∧
    (0x5#4).toNat ∈ [0x5, 0x6, 0xD, 0xE, 0xF] ∧ s0.fault.f = false := by decide
theorem witness_ReservedInstructionsTakeTheFault : sSent.fault.f = false := by decide
theorem witness_HaltedBlockIgnoresCommands : sHalt.fault.f = true ∧
    (presented .decErr sHalt).fault.f = true ∧
    (presented .decErr sHalt).inputs = ⟨false, some (encode .decErr)⟩ :: [] := ⟨by decide, by decide, rfl⟩
theorem witness_FaultsArePrecise : exec .decErr s0 = .next (after .decErr s0) ∧
    (after .decErr s0).fault ≠ s0.fault := ⟨rfl, by decide⟩
/-- At AB = 8: a command of the table that faults, and one that does not. -/
theorem witness_FaultsAreExactlyTheTable : sAb8.cfg.ab ≤ 8 ∧ sAb8.fault.f = false ∧
    exec .reserved6 sAb8 = .next (after .reserved6 sAb8) ∧
    faultOrder.find? (faultCondition sAb8 .reserved6) = some .illegalCommand ∧
    exec (.encErr 0xFF 0) sAb8 = .next (after (.encErr 0xFF 0) sAb8) ∧
    faultOrder.find? (faultCondition sAb8 (.encErr 0xFF 0)) = none :=
  ⟨by decide, by decide, rfl, by decide, rfl, by decide⟩
theorem witness_IdRangeIsNeverRecorded : s0.cfg.wf = true ∧
    exec (.encErr 0x7F 0) s0 = .next (after (.encErr 0x7F 0) s0) ∧ s0.fault.cause ≠ .idRange :=
  ⟨by decide, rfl, by decide⟩
theorem witness_CommandFrames : exec .decErr sErr = .next (after .decErr sErr) ∧
    writesFrame .decErr = false ∧ writesFrame (.encErr 0x80 0) = true ∧ decKind (.encErr 0x80 0) = none ∧
    exec (.encErr 0x80 0) sErr = .next (after (.encErr 0x80 0) sErr) ∧
    (after (.encErr 0x80 0) sErr).fault ≠ sErr.fault := ⟨rfl, rfl, rfl, rfl, rfl, by decide⟩
theorem witness_FrameIsReplacedWholeOrNotAtAll : writesFrame (.encErr 5 6) = true ∧
    sErr.cfg = sOther.cfg ∧ sErr.fault.f = false ∧ sOther.fault.f = false ∧
    exec (.encErr 5 6) sErr = .next (after (.encErr 5 6) sErr) ∧
    exec (.encErr 5 6) sOther = .next (after (.encErr 5 6) sOther) ∧
    (after (.encErr 5 6) sErr).fault.f = false ∧ exec .decErr sErr = .next (after .decErr sErr) ∧
    writesFrame .decErr = false :=
  ⟨rfl, by decide, by decide, by decide, rfl, rfl, by decide, rfl, rfl⟩
theorem witness_FrameInvariantsAreEstablished :
    exec (.encErr 5 6) s0 = .next (after (.encErr 5 6) s0) ∧ (after (.encErr 5 6) s0).fr ≠ s0.fr ∧
    sSent.fr.valid = true ∧ Spec.frameInvariants sSent ∧
    step (presented .decErr sSent) = .next (after .decErr sSent) ∧ (after .decErr sSent).fr.valid = true :=
  ⟨rfl, by decide, by decide, by unfold Spec.frameInvariants; decide, rfl, by decide⟩
/-- A state after a run has the invariant. -/
theorem witness_LiftingTheOutputsChangesNothing : sSent.Inv ∧ sSent.fault.f = false ∧
    sSent.fr.valid = true :=
  ⟨⟨by decide, ⟨by decide, by decide, by decide, by decide⟩,
    ⟨by decide, fun h => absurd h (by decide), by decide, by decide, by decide, by decide, by decide,
      by decide⟩, ⟨by decide, by decide, by decide⟩, by decide⟩, by decide, by decide⟩
theorem witness_EveryStepKeepsTheInvariant : (presented .decSent sSent).Inv ∧
    step (presented .decSent sSent) = .next (after .decSent sSent) :=
  ⟨⟨by decide, ⟨by decide, by decide, by decide, by decide⟩,
    ⟨by decide, fun h => absurd h (by decide), by decide, by decide, by decide, by decide, by decide,
      by decide⟩, ⟨by decide, by decide, by decide⟩, by decide⟩, rfl⟩
theorem witness_ResetHasTheInvariant : Config.rc.wf = true ∧ Config.rcPrime.wf = true := by decide
theorem witness_RoundTripOfEveryKind : s0.cfg.wf = true ∧ s0.fault.f = false ∧
    (0x7F#8).toNat ≤ s0.cfg.amask ∧ s0.cfg.statusValid (statusByteOf 0) = true ∧
    (0x3FFF#16).toNat < 0x8000 ∧ s0.cfg.reasonValid (BitVec.ofNat 15 (0x3FFF#16).toNat) = true ∧
    (2#4).toNat ≤ 8 ∧ (∀ i : Fin 8, (bytes [1, 2]).get i =
      if i.val < (2#4).toNat then (bytes [1, 2, 3]).get i else 0) ∧
    s0.cfg.parseMsgOk (bytes [1, 2]) = true ∧ s0.cfg.parseDidOk 2 (bytes [1, 2]) = true := by decide
theorem witness_KindIsolation : s0.cfg.wf = true ∧ s0.fault.f = false ∧
    encKind (.encErr 5 6) = some .error ∧ decKind .decSet = some .setData ∧ MsgKind.setData ≠ .error ∧
    exec (.encErr 5 6) s0 = .next (after (.encErr 5 6) s0) ∧ (after (.encErr 5 6) s0).fault.f = false :=
  ⟨by decide, by decide, rfl, rfl, by decide, rfl, by decide⟩
theorem witness_EmergencyPackingOf1234 : s0.cfg.wf = true ∧ s0.fault.f = false ∧
    (0x05#8).toNat ≤ s0.cfg.amask ∧ s0.cfg.statusValid 0x80 = true ∧ s0.cfg.reasonValid 0x1234 = true := by
  decide
theorem witness_ErrorByteOrderOfABCD : s0.cfg.wf = true ∧ s0.fault.f = false ∧
    (0x05#8).toNat ≤ s0.cfg.amask := by decide
theorem witness_PortsShowTheBuiltFrame : s0.cfg.wf = true ∧ s0.fault.f = false ∧
    encKind (.encErr 0x7F 6) = some .error ∧ exec (.encErr 0x7F 6) s0 = .next (after (.encErr 0x7F 6) s0) ∧
    (after (.encErr 0x7F 6) s0).fault.f = false := ⟨by decide, by decide, rfl, rfl, by decide⟩
theorem witness_AFaultedRunNeverEndsWell :
    (State.loaded Config.rc [encode .decErr]).runAll = .next (after .decErr s0) ∧
    (after .decErr s0).halted := ⟨rfl, by unfold State.halted; decide⟩
theorem witness_ConfigurationsCoverEveryParameter :
    ∀ i : Fin 8, (3#4).toNat ≤ i.val → (bytes [1, 2, 3]).get i = 0 := by decide
theorem witness_ConfigurationNeverChanges : step s0 = .next s0 := rfl

end Sys2Proof.Tests
end

section
/-! PROOFS. 00_scope: one step of the machine (R13), the configuration it keeps (R7, R233), and the
parameters a configuration can hold (R7). -/

namespace Sys2Proof

/-! ### A table for every function (R7, log 1) -/

/-- Every value of an `n`-bit port. -/
def allWords (n : Nat) : List (BitVec n) := (List.finRange (2 ^ n)).map BitVec.ofFin

theorem mem_allWords {n : Nat} (x : BitVec n) : x ∈ allWords n :=
  List.mem_map.mpr ⟨x.toFin, List.mem_finRange _, rfl⟩

/-- The table of a function: one row of full mask for every input. -/
def Verdicts.ofFn {n : Nat} (f : BitVec n → Bool) : Verdicts n :=
  ⟨(allWords n).map fun y => ⟨BitVec.allOnes n, y, f y⟩, false⟩

@[simp] theorem Verdicts.holds_ofFn {n : Nat} (f : BitVec n → Bool) (x : BitVec n) :
    (Verdicts.ofFn f).holds x = f x :=
  Verdicts.holds_rows f false x _ (mem_allWords x)

/-- The table of a function of a buffer, over the buffer's 64 bits. -/
noncomputable def Verdicts.ofBytes (f : Bytes8 → Bool) : Verdicts 64 :=
  .ofFn (Function.extend Bytes8.bits f fun _ => false)

theorem Verdicts.holds_ofBytes (f : Bytes8 → Bool) (w : Bytes8) :
    (Verdicts.ofBytes f).holds w.bits = f w := by
  have hinj : Function.Injective Bytes8.bits := fun _ _ => Bytes8.bits_injective
  simp [ofBytes, hinj.extend_apply]

/-- The input of `PARSE_DID_OK`'s table: the length, then the bits of the padded slice. -/
def sliceBits (p : BitVec 4 × Bytes8) : BitVec 68 := p.1 ++ p.2.bits

theorem sliceBits_injective : Function.Injective sliceBits := fun _ _ h =>
  have ⟨hlen, hbits⟩ := Bytes8.append_inj h
  Prod.ext hlen (Bytes8.bits_injective hbits)

/-- The table of a function of a length and a padded slice. -/
noncomputable def Verdicts.ofSlices (f : BitVec 4 → Bytes8 → Bool) : Verdicts 68 :=
  .ofFn (Function.extend sliceBits (fun p => f p.1 p.2) fun _ => false)

theorem Verdicts.holds_ofSlices (f : BitVec 4 → Bytes8 → Bool) (n : BitVec 4) (w : Bytes8) :
    (Verdicts.ofSlices f).holds (n ++ w.bits) = f n w :=
  (Verdicts.holds_ofFn _ _).trans (sliceBits_injective.extend_apply _ _ (n, w))

/-- The rows of a type decoder: every type field with its kind. -/
def kindRows (ft : BitVec 11 → Kind) : List (BitVec 11 × Kind) := (allWords 11).map fun t => (t, ft t)

theorem Config.ftDecode_of_kindRows {c : Config} {ft : BitVec 11 → Kind} (h : c.ftRows = kindRows ft)
    (t : BitVec 11) : c.ftDecode t = ft t := by
  unfold ftDecode
  rw [h]
  split
  next r hr =>
    obtain ⟨u, -, rfl⟩ := List.mem_map.mp (List.mem_of_find?_eq_some hr)
    have hu : u = t := by simpa using List.find?_some hr
    rw [hu]
  next hnone =>
    exact absurd (beq_self_eq_true t)
      (List.find?_eq_none.mp hnone _ (List.mem_map_of_mem (mem_allWords t)))

/-- The configuration with the given parameters of R7, each function as its table. -/
noncomputable def Config.ofParams (ab latency : Nat) (codes : MsgKind → Byte) (ft : BitVec 11 → Kind)
    (st : Byte → Bool) (rv : BitVec 15 → Bool) (pm : Bytes8 → Bool) (pd : BitVec 4 → Bytes8 → Bool)
    (ew : ExtWidePolicy) : Config where
  ab := ab
  codes := ⟨codes .emergency, codes .error, codes .sentData, codes .requestData, codes .setData⟩
  ftRows := kindRows ft
  ftOtherwise := .other
  status00 := st 0x00
  status80 := st 0x80
  reasons := .ofFn rv
  msgWindows := .ofBytes pm
  didSlices := .ofSlices pd
  extWide := ew
  latency := latency

/-- Settles O57: `Config.ofParams` writes each function of R7 out as a table with one row for each of its
inputs. -/
theorem configurationsCoverEveryParameter : Obligations.ConfigurationsCoverEveryParameter := by
  intro ab latency codes ft st rv pm pd ew
  refine ⟨.ofParams ab latency codes ft st rv pm pd ew, rfl, rfl, rfl, fun k => ?typeCode,
    fun t => ?ftDecode, rfl, rfl, Verdicts.holds_ofFn rv, Verdicts.holds_ofBytes pm,
    fun n w hw => ?parseDidOk⟩
  case typeCode => cases k <;> rfl
  case ftDecode => exact Config.ftDecode_of_kindRows (by simp only [Config.ofParams]) t
  case parseDidOk =>
    rw [Config.parseDidOk, Bytes8.keep_eq_self hw]
    exact Verdicts.holds_ofSlices pd n w

/-! ### Decoding a presented instruction -/

/-- The bundle that presents an instruction decodes to it (R71, R74). -/
@[simp] theorem decode_encode (i : Instr) : decode (encode i) = i := by
  cases i <;> rfl

namespace Machine

/-! ### One step, by the host's oldest input (R13, R59) -/

variable {s t : State} {i : Instr} {rest : List HostInput}

theorem step_of_inputs_nil (h : s.inputs = []) : step s = .next s := by
  rw [step, takeInput_nil h]

theorem step_of_inputs_reset {cmd : Option Command} (h : s.inputs = ⟨true, cmd⟩ :: rest) :
    step s = .next (resetBlock { s with inputs := rest }) := by
  rw [step, takeInput_cons h]
  rfl

theorem step_of_inputs_idle (h : s.inputs = ⟨false, none⟩ :: rest) :
    step s = .next { s with inputs := rest } := by
  rw [step, takeInput_cons h]
  rfl

theorem step_of_inputs_command {c : Command} (h : s.inputs = ⟨false, some c⟩ :: rest) :
    step s = exec (decode c) { s with inputs := rest } := by
  rw [step, takeInput_cons h]
  rfl

/-- Settles O2, one rule of `step` for each form of the oldest input. -/
theorem stepRunsTheDecodedCommand : Obligations.StepRunsTheDecodedCommand :=
  ⟨fun _ _ _ h => step_of_inputs_command h,
    fun _ i _ h => by rw [step_of_inputs_command h, decode_encode],
    fun _ _ h => step_of_inputs_idle h, fun _ h => step_of_inputs_nil h⟩

/-! ### Totality (R13) -/

/-- Every arm of the dispatch answers a next state: a fault is an effect on FAULT (log 8). -/
theorem exec_total (i : Instr) (s : State) : ∃ t, exec i s = .next t := by
  cases i <;> exact ⟨_, rfl⟩

theorem step_total (s : State) : ∃ t, step s = .next t := by
  match h : s.inputs with
  | [] => exact ⟨_, step_of_inputs_nil h⟩
  | ⟨true, _⟩ :: _ => exact ⟨_, step_of_inputs_reset h⟩
  | ⟨false, none⟩ :: _ => exact ⟨_, step_of_inputs_idle h⟩
  | ⟨false, some c⟩ :: rest =>
    rw [step_of_inputs_command h]
    exact exec_total (decode c) _

/-- Settles O3: every instruction's meaning is total, hence so is every form of step. -/
theorem everyCommandAnswersANextState : Obligations.EveryCommandAnswersANextState :=
  ⟨exec_total, step_total⟩

/-! ### The configuration is kept (R7, R233) -/

theorem Effect.cfg_eq (h : Effect i s t) : t.cfg = s.cfg := by
  cases h with
  | halted => rfl
  | fault => exact raiseFault_cfg ..
  | frame => exact writeFrame_cfg ..
  | result => exact writeRes_cfg ..

theorem exec_cfg (h : exec i s = .next t) : t.cfg = s.cfg := (exec_effect h).cfg_eq

/-- Settles O56, from the four effects a command can have and the inversion of `step`. -/
theorem configurationNeverChanges : Obligations.ConfigurationNeverChanges := by
  intro s t h
  obtain ⟨-, rfl⟩ | ⟨_, rest, -, ⟨-, rfl⟩ | ⟨-, -, rfl⟩ | ⟨c, -, -, hexec⟩⟩ := step_cases h
  · rfl
  · exact resetBlock_cfg _
  · rfl
  · exact (exec_cfg hexec :)

end Machine

end Sys2Proof
end

section
/-! PROOFS. 10_state: the invariant of the registers (R26 to R31, R40), how FR is replaced (R27), operand
ports that a command does not use (R37), and the output ports (R38, R39). -/

namespace Sys2Proof.Machine

open Sys2Proof.Spec

variable {s t : State} {i : Instr} {k : MsgKind}

/-! ### The invariant: reset values, and what each register write establishes -/

theorem FrameInv.reset (c : Config) : FrameInv c .reset := ⟨nofun, nofun, nofun, fun _ => rfl⟩

theorem ResInv.reset : ResInv .reset where
  empty _ := rfl
  kind_asked := nofun
  zero_on_error h := absurd rfl h
  emergency_fields := nofun
  error_fields := nofun
  data_fields _ _ := rfl
  plen_le := Nat.zero_le 8
  zero_beyond j _ := Bytes8.get_zero j

theorem FaultInv.reset : FaultInv .reset := ⟨fun _ => rfl, nofun, nofun⟩

/-- A fault of R211's table, other than ID_RANGE. -/
theorem FaultInv.of_raisedBy {cause : FaultCause} {op : BitVec 4} (h : raisedBy cause op = true)
    (hrange : cause ≠ .idRange) : FaultInv ⟨true, cause, op⟩ := ⟨nofun, fun _ => h, hrange⟩

/-- A frame written whole (R127, R143). -/
theorem FrameInv.of_good (c : Config) (id : BitVec 11) {b : Body} (h : b.Good) :
    FrameInv c ⟨true, id, b.len, b.data, classify c id⟩ :=
  ⟨fun _ => h.1, fun _ => h.2, fun _ => rfl, nofun⟩

/-- A result written whole over a Frame of at most 8 bytes (R28, R30). -/
theorem ResInv.of_payloadOf {r : FrameReg} {e : DecErr} {p : Payload} (h : PayloadOf r e k p)
    (hlen : r.len.toNat ≤ 8) :
    ResInv ⟨true, e, .msg k, p.status, p.reason, p.code, p.plen, p.pb⟩ where
  empty := nofun
  kind_asked _ := ⟨k, rfl⟩
  zero_on_error := h.zero_on_error
  emergency_fields hk := h.emergency_fields (Kind.msg.inj hk)
  error_fields hk := h.error_fields (Kind.msg.inj hk)
  data_fields hemg herr := h.data_fields (fun hk => hemg (congrArg _ hk)) fun hk => herr (congrArg _ hk)
  plen_le := h.plen.elim id fun heq => (congrArg BitVec.toNat heq).trans_le hlen
  zero_beyond := h.zero_beyond

/-- The host's inputs are no part of the invariant. -/
theorem State.Inv.withInputs (h : s.Inv) (rest : List HostInput) : State.Inv { s with inputs := rest } :=
  ⟨h.cfg_wf, h.frame, h.result, h.fault, h.result_after_frame⟩

theorem resetBlock_inv (h : s.cfg.wf = true) : (resetBlock s).Inv :=
  ⟨h, .reset _, .reset, .reset, nofun⟩

/-- Each effect of a command writes at most one register, and keeps the invariant. -/
theorem Effect.inv (h : Effect i s t) (hs : s.Inv) : t.Inv := by
  obtain ⟨hwf, hframe, hres, hfault, hafter⟩ := hs
  cases h with
  | halted => exact ⟨hwf, hframe, hres, hfault, hafter⟩
  | fault cause _ hop hrange => exact ⟨hwf, hframe, hres, .of_raisedBy hop (hrange hwf), hafter⟩
  | frame id b _ _ hgood => exact ⟨hwf, .of_good _ id hgood, hres, hfault, fun _ => rfl⟩
  | result e k p _ _ hvalid hp =>
    exact ⟨hwf, hframe, .of_payloadOf hp (hframe.len_le hvalid), hfault, fun _ => hvalid⟩

/-- Settles O46: idling and reset keep the invariant, and so does every effect a command can have. -/
theorem everyStepKeepsTheInvariant : Obligations.EveryStepKeepsTheInvariant := by
  intro s t hs h
  obtain ⟨-, rfl⟩ | ⟨_, rest, -, ⟨-, rfl⟩ | ⟨-, -, rfl⟩ | ⟨c, -, -, hexec⟩⟩ := step_cases h
  · exact hs
  · exact resetBlock_inv hs.cfg_wf
  · exact hs.withInputs rest
  · exact (exec_effect hexec).inv (hs.withInputs rest)

/-! ### Operand ports that a command does not use (R37, R74) -/

/-- `decode` reads no port but those its opcode names. -/
theorem decode_eq_of_readPortsAgree {c d : Command} (hop : c.op = d.op)
    (h : readPortsAgree c.op c.ports d.ports) : decode c = decode d := by
  obtain ⟨haddr, hemg, herr, hdata, hlift⟩ := h
  have hwriter (hc : c.op = 2 ∨ c.op = 3 ∨ c.op = 4) (mk : Byte → Bool → BitVec 4 → Bytes8 → Instr) :
      mk c.ports.addr c.ports.wrOk c.ports.wrLen c.ports.wrBytes =
        mk d.ports.addr d.ports.wrOk d.ports.wrLen d.ports.wrBytes := by
    obtain ⟨hok, hlen, hbytes⟩ := hdata hc
    rw [haddr (by obtain hc | hc | hc := hc <;> rw [hc] <;> decide), hok, hlen, hbytes]
  unfold decode
  rw [← hop]
  split
  case h_1 hc =>
    obtain ⟨hstatus, hreason⟩ := hemg (BitVec.eq_of_toNat_eq hc)
    rw [haddr (by omega), hstatus, hreason]
  case h_2 hc => rw [haddr (by omega), herr (BitVec.eq_of_toNat_eq hc)]
  case h_3 hc => exact hwriter (.inl (BitVec.eq_of_toNat_eq hc)) .encSent
  case h_4 hc => exact hwriter (.inr (.inl (BitVec.eq_of_toNat_eq hc))) .encReq
  case h_5 hc => exact hwriter (.inr (.inr (BitVec.eq_of_toNat_eq hc))) .encSet
  case h_8 hc =>
    obtain ⟨hext, hrtr, hid, hlen, hbytes⟩ := hlift (BitVec.eq_of_toNat_eq hc)
    rw [hext, hrtr, hid, hlen, hbytes]
  all_goals rfl

/-- Settles O6: the two bundles decode to one instruction, and a step runs the decoded instruction. -/
theorem unreadPortsAffectNothing : Obligations.UnreadPortsAffectNothing := by
  intro s c d rest hop h
  rw [step_of_inputs_command rfl, step_of_inputs_command rfl, decode_eq_of_readPortsAgree hop h]

/-! ### The rules of a running constructor and a running LIFT (R141, R143, R127, R213) -/

section Running

variable {op : BitVec 4} {addr : Byte} {body : Except FaultCause Body} {b : Body} {genExt : Bool}
  {genId : BitVec 29} {id : BitVec 11} {cause : FaultCause} (run : s.fault.f = false)
include run

theorem construct_of_packId_error (hid : packId s.cfg (s.cfg.typeCode k) addr = .error cause) :
    construct k op addr body s = raiseFault cause op s := by
  simp only [construct, unlessHalted_running run, hid]

theorem construct_of_body_error (hid : packId s.cfg (s.cfg.typeCode k) addr = .ok id) :
    construct k op addr (.error cause) s = raiseFault cause op s := by
  simp only [construct, unlessHalted_running run, hid]

theorem construct_of_ok (hid : packId s.cfg (s.cfg.typeCode k) addr = .ok id) :
    construct k op addr (.ok b) s = writeFrame id b s := by
  simp only [construct, unlessHalted_running run, hid]

theorem liftFrame_of_liftId_error (hid : liftId s.cfg genExt genId = .error cause) :
    liftFrame op genExt genId b s = raiseFault cause op s := by
  simp only [liftFrame, unlessHalted_running run, hid]

theorem liftFrame_of_liftId_ok (hid : liftId s.cfg genExt genId = .ok id) :
    liftFrame op genExt genId b s = writeFrame id b s := by
  simp only [liftFrame, unlessHalted_running run, hid]

end Running

/-! ### The commands that write FR -/

/-- LIFT and the constructors have the opcodes 0x0 to 0x4 and 0x7 (R72). -/
theorem writesFrame_eq (i : Instr) :
    writesFrame i = decide (i.opcode.toNat ≤ 4 ∨ i.opcode.toNat = 7) := by
  cases i <;> rfl

theorem writesFrame_cases (h : writesFrame i = true) :
    (∃ k, encKind i = some k) ∨ ∃ ext rtr id len w, i = .lift ext rtr id len w := by
  cases i with
  | lift ext rtr id len w => exact .inr ⟨ext, rtr, id, len, w, rfl⟩
  | _ => exact .inl (Option.isSome_iff_exists.mp h)

/-- A constructor is `construct` of its kind, with a payload step that sees the configuration alone. -/
theorem exec_constructor (h : encKind i = some k) :
    ∃ body : Config → Except FaultCause Body,
      ∀ s, exec i s = .next (construct k i.opcode i.ports.addr (body s.cfg) s) := by
  cases i <;> cases h
  case encEmg addr status reason => exact ⟨fun c => emergencyBody c status reason, fun _ => rfl⟩
  case encErr addr code => exact ⟨fun _ => errorBody code, fun _ => rfl⟩
  case encSent addr ok len w => exact ⟨fun _ => writerBody ok len w, fun _ => rfl⟩
  case encReq addr ok len w => exact ⟨fun _ => writerBody ok len w, fun _ => rfl⟩
  case encSet addr ok len w => exact ⟨fun _ => writerBody ok len w, fun _ => rfl⟩

theorem exec_lift (ext rtr : Bool) (id : BitVec 29) (len : BitVec 4) (w : Bytes8) (s : State) :
    exec (.lift ext rtr id len w) s = .next (liftFrame Opcode.lift ext id (liftBody len w) s) := rfl

/-! ### FR is replaced whole or not at all (R27) -/

/-- Only a LIFT or constructor that is not halted and does not fault writes FR. -/
theorem Effect.fr_eq (h : Effect i s t)
    (hnot : writesFrame i = false ∨ t.fault ≠ s.fault ∨ s.fault.f = true) : t.fr = s.fr := by
  cases h with
  | halted => rfl
  | fault => exact raiseFault_fr ..
  | result => exact writeRes_fr ..
  | frame id b run hop =>
    obtain hw | hfault | hhalt := hnot
    · rw [writesFrame_eq, decide_eq_false_iff_not] at hw; exact absurd hop hw
    · exact absurd (writeFrame_fault ..) hfault
    · rw [run] at hhalt; cases hhalt

/-- The configuration alone decides whether a writing command that is not halted faults, and else which
identifier and buffer it writes. -/
theorem exec_writesFrame (h : writesFrame i = true) (c : Config) :
    (∃ cause, ∀ s : State, s.cfg = c → s.fault.f = false →
      exec i s = .next (raiseFault cause i.opcode s)) ∨
    (∃ id b, ∀ s : State, s.cfg = c → s.fault.f = false → exec i s = .next (writeFrame id b s)) := by
  obtain ⟨k, hk⟩ | ⟨ext, rtr, genId, len, w, rfl⟩ := writesFrame_cases h
  · obtain ⟨body, hexec⟩ := exec_constructor hk
    cases hid : packId c (c.typeCode k) i.ports.addr with
    | error cause =>
      exact .inl ⟨cause, by rintro s rfl run; rw [hexec, construct_of_packId_error run hid]⟩
    | ok id =>
      cases hbody : body c with
      | error cause =>
        exact .inl ⟨cause, by rintro s rfl run; rw [hexec, hbody, construct_of_body_error run hid]⟩
      | ok b =>
        exact .inr ⟨id, b, by rintro s rfl run; rw [hexec, hbody, construct_of_ok run hid]⟩
  · cases hid : liftId c ext genId with
    | error cause =>
      exact .inl ⟨cause, by rintro s rfl run; rw [exec_lift, liftFrame_of_liftId_error run hid]; rfl⟩
    | ok id =>
      exact .inr ⟨id, liftBody len w, by
        rintro s rfl run; rw [exec_lift, liftFrame_of_liftId_ok run hid]⟩

/-- Settles O44: the effects of a command say when FR is kept, and what a writing command writes is fixed by
the configuration. -/
theorem frameIsReplacedWholeOrNotAtAll : Obligations.FrameIsReplacedWholeOrNotAtAll := by
  refine ⟨fun i s t h => (exec_effect h).fr_eq, fun i s s' t t' hi hcfg run run' h h' hok => ?_⟩
  obtain ⟨cause, hfault⟩ | ⟨id, b, hwrite⟩ := exec_writesFrame hi s.cfg
  · rw [hfault s rfl run] at h
    cases h
    cases hok
  · rw [hwrite s rfl run] at h
    rw [hwrite s' hcfg.symm run'] at h'
    cases h
    cases h'
    exact ⟨by rw [writeFrame_fr, writeFrame_fr, hcfg], rfl⟩

/-! ### The output ports (R38, R39) -/

/-- Settles O52: the two ports are the constant 0. -/
theorem outputsAreStandardAndNonRemote : Obligations.OutputsAreStandardAndNonRemote :=
  fun _ => ⟨rfl, rfl⟩

/-- The identifier step of a constructor succeeds on fitting addresses alone, with R108's identifier. -/
theorem packId_kind_ok {c : Config} (hc : c.wf = true) {a : Byte} {id : BitVec 11}
    (h : packId c (c.typeCode k) a = .ok id) :
    a.toNat ≤ c.amask ∧ id = BitVec.ofNat 11 (identNat c k a) := by
  by_cases ha : a.toNat ≤ c.amask
  · rw [packId_kind hc k ha] at h
    exact ⟨ha, (Except.ok.inj h).symm⟩
  · rw [packId_addrRange (Nat.lt_of_not_le ha)] at h
    cases h

/-- A constructor that is not halted and does not fault writes R108's identifier, of a fitting address. -/
theorem exec_constructor_ok (hc : s.cfg.wf = true) (run : s.fault.f = false) (hi : encKind i = some k)
    (h : exec i s = .next t) (hok : t.fault.f = false) :
    i.ports.addr.toNat ≤ s.cfg.amask ∧
      ∃ b, t = writeFrame (BitVec.ofNat 11 (identNat s.cfg k i.ports.addr)) b s := by
  obtain ⟨body, hexec⟩ := exec_constructor hi
  rw [hexec] at h
  cases h
  obtain ⟨_, -, ht⟩ | ⟨_, _, -, -, ht⟩ | ⟨id, b, hid, -, ht⟩ := construct_cases
    (k := k) (op := i.opcode) (addr := i.ports.addr) (body := body s.cfg) run <;> rw [ht] at hok ⊢
  · cases hok
  · cases hok
  · obtain ⟨ha, rfl⟩ := packId_kind_ok hc hid
    exact ⟨ha, b, rfl⟩

/-- Settles O53: the fields of R108's identifier are the type code and the address, and it classifies as the
constructor's kind. -/
theorem portsShowTheBuiltFrame : Obligations.PortsShowTheBuiltFrame := by
  intro s t i k hc run hi h hok
  obtain ⟨ha, b, rfl⟩ := exec_constructor_ok hc run hi h hok
  have hle := composed_le hc k ha
  refine ⟨rfl, ?outType, addrField_composed hc k ha, ?outKind, ?outId⟩
  case outType =>
    exact (congrArg BitVec.toNat (typeField_composed hc k ha)).trans
      (BitVec.toNat_setWidth_of_le (by decide))
  case outKind => exact congrArg kindCode (classify_composed hc k ha)
  case outId => exact (BitVec.toNat_ofNat ..).trans (Nat.mod_eq_of_lt (Nat.lt_succ_of_le hle))

/-! ### Lifting the Frame that the ports show (R26, R120 to R127) -/

/-- An identifier of 11 bits passes LIFT's check of standard identifiers (R121). -/
theorem liftId_setWidth (c : Config) (id : BitVec 11) :
    liftId c false (id.setWidth 29) = .ok id := by
  have hhigh : (id.setWidth 29).extractLsb' 11 18 = 0 := by
    have hlt := id.isLt
    apply BitVec.eq_of_toNat_eq
    rw [BitVec.extractLsb'_toNat, BitVec.toNat_setWidth_of_le (by decide), Nat.shiftRight_eq_div_pow,
      Nat.div_eq_of_lt hlt, Nat.zero_mod]
    rfl
  simp [liftId, hhigh]

/-- LIFT's length and data intake changes no buffer that FR may hold (R125, R126). -/
theorem liftBody_of_good {b : Body} (h : b.Good) : liftBody b.len b.data = b := by
  obtain ⟨hlen, hzero⟩ := h
  simp only [liftBody, Nat.min_eq_left hlen, BitVec.ofNat_toNat, BitVec.setWidth_eq,
    Bytes8.keep_eq_self hzero]

/-- Under I2 to I4, writing the identifier and the buffer of a valid FR again changes nothing. -/
theorem writeFrame_self (h : FrameInv s.cfg s.fr) (hvalid : s.fr.valid = true) :
    writeFrame s.fr.id ⟨s.fr.len, s.fr.data⟩ s = s := by
  rw [writeFrame, ← h.kind_eq hvalid, ← hvalid]

/-- Settles O54: what the ports show passes LIFT's intake unchanged, and FR holds it already. -/
theorem liftingTheOutputsChangesNothing : Obligations.LiftingTheOutputsChangesNothing := by
  intro s rtr hs run hvalid
  have hgood : (⟨s.fr.len, s.fr.data⟩ : Body).Good :=
    ⟨hs.frame.len_le hvalid, hs.frame.zero_beyond hvalid⟩
  change exec (.lift false rtr (s.fr.id.setWidth 29) s.fr.len s.fr.data) s = .next s
  rw [exec_lift, liftFrame_of_liftId_ok run (liftId_setWidth s.cfg s.fr.id), liftBody_of_good hgood,
    writeFrame_self hs.frame hvalid]

end Sys2Proof.Machine
end

section
/-! PROOFS. 30_encoding: the opcode map (R72), the reserved opcodes (R73), decode and encode (R74), and the
assembler (R77, R78). -/

namespace Sys2Proof

open Sys2Proof.Machine Sys2Proof.Spec

variable {i : Instr} {k : MsgKind} {c d : Command}

/-! ### The opcode map (R72) -/

/-- A decoded instruction has the opcode of its bundle, for each of the 16 opcodes. -/
@[simp] theorem opcode_decode (c : Command) : (decode c).opcode = c.op := by
  obtain ⟨⟨n⟩, p⟩ := c
  fin_cases n <;> rfl

/-- A constructor's opcode is bit 3 clear, then its kind's code. -/
theorem opcode_of_encKind (h : encKind i = some k) : i.opcode = 0#1 ++ kindCode (.msg k) := by
  cases i <;> cases h <;> rfl

/-- A decoder's opcode is bit 3 set, then its kind's code. -/
theorem opcode_of_decKind (h : decKind i = some k) : i.opcode = 1#1 ++ kindCode (.msg k) := by
  cases i <;> cases h <;> rfl

/-- Settles O4: each row is an equation of `decode`, and a kind's opcode is bit 3 before its code. -/
theorem opcodeMapDecodes : Obligations.OpcodeMapDecodes := by
  refine ⟨fun _ => ⟨rfl, rfl, rfl, rfl, rfl, rfl, rfl, rfl, rfl, rfl, rfl, rfl, rfl, rfl, rfl, rfl⟩,
    fun i k h => ?enc, fun i k h => ?dec⟩
  case enc =>
    rw [opcode_of_encKind h]
    exact ⟨BitVec.extractLsb'_append_eq_right, BitVec.getLsbD_append.trans rfl⟩
  case dec =>
    rw [opcode_of_decKind h]
    exact ⟨BitVec.extractLsb'_append_eq_right, BitVec.getLsbD_append.trans rfl⟩

/-! ### Decoding reads exactly the ports of its opcode (R74) -/

theorem op_eq_of_decode_eq (h : decode c = decode d) : c.op = d.op := by
  rw [← opcode_decode c, h, opcode_decode]

/-- Each port that an opcode reads is an operand of the decoded instruction, so it can be read off it. -/
theorem readPortsAgree_of_decode_eq {op : BitVec 4} {p q : Operands}
    (h : decode ⟨op, p⟩ = decode ⟨op, q⟩) : readPortsAgree op p q := by
  refine ⟨fun hop => ?addr, ?emg, ?err, ?data, ?lift⟩
  case addr =>
    have hcases : op = 0 ∨ op = 1 ∨ op = 2 ∨ op = 3 ∨ op = 4 := by bv_omega
    obtain rfl | rfl | rfl | rfl | rfl := hcases <;> exact congrArg (·.ports.addr) h
  case emg => rintro rfl; exact (Instr.encEmg.inj h).2
  case err => rintro rfl; exact (Instr.encErr.inj h).2
  case data =>
    rintro (rfl | rfl | rfl)
    · exact (Instr.encSent.inj h).2
    · exact (Instr.encReq.inj h).2
    · exact (Instr.encSet.inj h).2
  case lift => rintro rfl; exact Instr.lift.inj h

theorem decode_eq_iff : decode c = decode d ↔ c.op = d.op ∧ readPortsAgree c.op c.ports d.ports := by
  refine ⟨fun h => ?_, fun ⟨hop, hports⟩ => decode_eq_of_readPortsAgree hop hports⟩
  obtain ⟨op, p⟩ := c
  obtain ⟨op', q⟩ := d
  obtain rfl : op = op' := op_eq_of_decode_eq h
  exact ⟨rfl, readPortsAgree_of_decode_eq h⟩

/-- Settles O5: a decoded instruction shows its opcode and every port it was read from, and nothing else. -/
theorem decodeAndEncodeAgree : Obligations.DecodeAndEncodeAgree :=
  ⟨decode_encode, fun _ _ => decode_eq_iff⟩

/-! ### The assembler (R77, R78) -/

@[simp] theorem fits_iff {n x : Nat} : fits n x = true ↔ x < 2 ^ n := decide_eq_true_iff

@[simp] theorem bytesFit_iff {bs : List Nat} :
    bytesFit bs = true ↔ bs.length ≤ 8 ∧ ∀ b ∈ bs, b < 256 := by
  simp [bytesFit]

theorem Asm.assemble_of_wf {a : Asm} (h : a.wf = true) : a.assemble = a.expand.core := if_pos h

/-- The buffer of a byte list holds the listed bytes, and zeros beyond them. -/
theorem get_bytesOf_toNat {bs : List Nat} (h : ∀ b ∈ bs, b < 256) (i : Fin 8) :
    ((bytesOf bs).get i).toNat = bs.getD i.val 0 := by
  have hlt : bs.getD i.val 0 < 256 := by
    rw [List.getD_eq_getElem?_getD]
    cases hi : bs[i.val]? with
    | none => exact Nat.zero_lt_succ 255
    | some b => exact h b (List.mem_of_getElem? hi)
  rw [bytesOf, Bytes8.get_ofFn, BitVec.toNat_ofNat, Nat.mod_eq_of_lt hlt]

/-- Settles O7: a pseudo-command in range is well formed, and its expansion names its command. -/
theorem pseudoCommandsExpand : Obligations.PseudoCommandsExpand := by
  intro bs hlen hbytes
  have hbs : bytesFit bs = true := bytesFit_iff.mpr ⟨hlen, hbytes⟩
  refine ⟨bytesOf bs, get_bytesOf_toNat hbytes, fun a ha => ?data, fun id hid => ?lift⟩
  case data =>
    have hwf : (fits 8 a && bytesFit bs) = true := Bool.and_eq_true_iff.mpr ⟨fits_iff.mpr ha, hbs⟩
    exact ⟨Asm.assemble_of_wf hwf, Asm.assemble_of_wf hwf, Asm.assemble_of_wf hwf⟩
  case lift =>
    have hwf : (fits 29 id && bytesFit bs) = true := Bool.and_eq_true_iff.mpr ⟨fits_iff.mpr hid, hbs⟩
    exact ⟨Asm.assemble_of_wf hwf, Asm.assemble_of_wf hwf⟩

/-- Settles O8: the assembler runs on each of the eleven lines. -/
theorem assemblerReadsEveryForm : Obligations.AssemblerReadsEveryForm :=
  ⟨rfl, rfl, rfl, rfl, rfl, rfl, rfl, rfl, rfl, rfl, rfl⟩

/-! ### The reserved opcodes (R73) -/

namespace Machine

theorem reservedCommand_running {s : State} (op : BitVec 4) (run : s.fault.f = false) :
    reservedCommand op s = faulted .illegalCommand op s :=
  unlessHalted_running run

/-- An instruction with a reserved opcode is a reserved command, and takes its fault when not halted. -/
theorem exec_reserved {s : State} (hop : i.opcode.toNat ∈ [0x5, 0x6, 0xD, 0xE, 0xF])
    (run : s.fault.f = false) : exec i s = .next (faulted .illegalCommand i.opcode s) := by
  rw [← reservedCommand_running i.opcode run]
  cases i
  case reserved5 | reserved6 | reservedD | reservedE | reservedF => rfl
  all_goals exact absurd hop (of_decide_eq_false rfl)

/-- Settles O37: the decoded instruction has the bundle's opcode. -/
theorem reservedOpcodesAreIllegal : Obligations.ReservedOpcodesAreIllegal := by
  intro s op p hop run
  have hdec : (decode ⟨op, p⟩).opcode = op := opcode_decode ⟨op, p⟩
  rw [exec_reserved (by rwa [hdec]) run, hdec]

/-- Settles O38: `exec_reserved` at each of the five. -/
theorem reservedInstructionsTakeTheFault : Obligations.ReservedInstructionsTakeTheFault :=
  fun _ run =>
    ⟨exec_reserved (by decide) run, exec_reserved (by decide) run, exec_reserved (by decide) run,
      exec_reserved (by decide) run, exec_reserved (by decide) run⟩

end Machine

end Sys2Proof
end

section
/-! PROOFS. 40_identifier: what PACK_ID composes and refuses (R101 to R103, R108), and the cause that a
well-formed configuration rules out (R102). -/

namespace Sys2Proof.Machine

open Sys2Proof.Spec

variable {c : Config} {k : MsgKind} {a : Byte} {i : Instr} {s t : State}

/-! ### Composing and splitting (R100, R108) -/

/-- A fitting address lies below the shifted type code, so that joining the two fields adds them (R100). -/
theorem identNat_eq_shiftLeft_or (ha : a.toNat ≤ c.amask) :
    identNat c k a = (c.typeCode k).toNat <<< c.ab ||| a.toNat := by
  have hlt : a.toNat < 2 ^ c.ab := Nat.lt_of_le_pred (Nat.two_pow_pos c.ab) ha
  rw [← Nat.shiftLeft_add_eq_or_of_lt hlt, Nat.shiftLeft_eq, identNat]

/-- No bit of a composed identifier is lost in 11 bits (R102). -/
theorem toNat_composed (hc : c.wf = true) (ha : a.toNat ≤ c.amask) :
    (BitVec.ofNat 11 (identNat c k a)).toNat = identNat c k a :=
  (BitVec.toNat_ofNat ..).trans (Nat.mod_eq_of_lt (Nat.lt_succ_of_le (composed_le hc k ha)))

theorem typeField_composed_toNat (hc : c.wf = true) (ha : a.toNat ≤ c.amask) :
    (typeField c (BitVec.ofNat 11 (identNat c k a))).toNat = (c.typeCode k).toNat := by
  rw [identNat, typeField_composed hc k ha, BitVec.toNat_setWidth_of_le (by decide)]

/-- Settles O9: PACK_ID answers the composed identifier, and each field of it is read back. -/
theorem packIdComposesAndSplits : Obligations.PackIdComposesAndSplits := fun c k a hc ha =>
  ⟨BitVec.ofNat 11 (identNat c k a), packId_kind hc k ha,
    (toNat_composed hc ha).trans (identNat_eq_shiftLeft_or ha), typeField_composed_toNat hc ha,
    addrField_composed hc k ha⟩

/-! ### The two refusals (R102, R103) -/

/-- Settles O10: `2 ^ AB - 1` is AMASK, and PACK_ID compares the address with it first. -/
theorem packIdRefusesAWideAddress : Obligations.PackIdRefusesAWideAddress :=
  fun _ _ _ h => packId_addrRange h

/-- Of the effects of a command only a fault writes FAULT.CAUSE, and not with ID_RANGE. -/
theorem Effect.cause_ne_idRange (h : Effect i s t) (hc : s.cfg.wf = true)
    (hs : s.fault.cause ≠ .idRange) : t.fault.cause ≠ .idRange := by
  cases h with
  | halted => exact hs
  | fault _ _ _ hrange => rw [raiseFault_fault]; exact hrange hc
  | frame => rwa [writeFrame_fault]
  | result => rwa [writeRes_fault]

/-- Settles O42: no effect of a command records ID_RANGE, and every command has one of the effects. -/
theorem idRangeIsNeverRecorded : Obligations.IdRangeIsNeverRecorded :=
  fun _ _ _ hc h hs => (exec_effect h).cause_ne_idRange hc hs

end Sys2Proof.Machine
end

section
/-! PROOFS. 41_lift: which identifiers LIFT accepts and refuses (R121 to R124), the Frame it builds (R122,
R125 to R127), and the registers that a command leaves unchanged (R129, R156). -/

namespace Sys2Proof.Machine

open Sys2Proof.Spec

variable {s t : State} {i : Instr} {c : Config} {ext rtr : Bool} {id : BitVec 29} {cause : FaultCause}
  {n : BitVec 4} {w : Bytes8}

/-! ### The identifier intake (R121 to R123) -/

/-- Bits 28 to 11 are 0 exactly on the identifiers up to 0x7FF. -/
theorem highBits_eq_zero_iff : id.extractLsb' 11 18 = 0 ↔ id.toNat ≤ 0x7FF := by
  have hlt := id.isLt
  rw [← BitVec.toNat_inj, BitVec.extractLsb'_toNat, Nat.shiftRight_eq_div_pow]
  simp only [BitVec.ofNat_eq_ofNat, BitVec.toNat_ofNat]
  omega

theorem liftId_accepted (h : id.toNat ≤ 0x7FF ∨ (ext = true ∧ c.extWide = .low11)) :
    liftId c ext id = .ok (id.setWidth 11) := by
  obtain ⟨hext, hhigh, -⟩ | ⟨-, hwide, hpolicy, -⟩ | ⟨-, -, hok⟩ := liftId_cases c ext id
  · obtain hle | ⟨hext', -⟩ := h
    · exact absurd (highBits_eq_zero_iff.mpr hle) hhigh
    · rw [hext] at hext'; cases hext'
  · obtain hle | ⟨-, hpolicy'⟩ := h
    · exact absurd hle (Nat.not_le.mpr hwide)
    · rw [hpolicy] at hpolicy'; cases hpolicy'
  · exact hok

theorem liftId_standard_wide (h : id.extractLsb' 11 18 ≠ 0) :
    liftId c false id = .error .genIdRange := by
  obtain ⟨-, -, herr⟩ | ⟨hext, -⟩ | ⟨hzero, -⟩ := liftId_cases c false id
  · exact herr
  · cases hext
  · exact absurd (hzero rfl) h

theorem liftId_extended_wide (h : 0x7FF < id.toNat) (hpolicy : c.extWide = .fault) :
    liftId c true id = .error .extIdWide := by
  obtain ⟨hext, -⟩ | ⟨-, -, -, herr⟩ | ⟨-, hlow, -⟩ := liftId_cases c true id
  · cases hext
  · exact herr
  · rw [hlow rfl h] at hpolicy; cases hpolicy

/-- The 11 bits that LIFT takes are gen_id[10:0]. -/
theorem writeFrame_low11 (id : BitVec 29) (b : Body) (s : State) :
    (writeFrame (id.setWidth 11) b s).fr.id = id.extractLsb' 0 11 := by
  rw [writeFrame_fr, BitVec.setWidth_eq_extractLsb' (by decide)]

/-! ### A LIFT that is not halted (R120, R210) -/

/-- An accepted identifier is written with LIFT's length and data, whatever gen_rtr is. -/
theorem exec_lift_accepted (run : s.fault.f = false)
    (h : id.toNat ≤ 0x7FF ∨ (ext = true ∧ s.cfg.extWide = .low11)) :
    exec (.lift ext rtr id n w) s = .next (writeFrame (id.setWidth 11) (liftBody n w) s) := by
  rw [exec_lift, liftFrame_of_liftId_ok run (liftId_accepted h)]

theorem exec_lift_refused (run : s.fault.f = false) (h : liftId s.cfg ext id = .error cause) :
    exec (.lift ext rtr id n w) s = .next (faulted cause 0x7 s) := by
  rw [exec_lift, liftFrame_of_liftId_error run h]
  rfl

/-- Settles O19: LIFT writes the accepted identifier with the kept bytes of its buffer. -/
theorem liftBuildsTheFrame : Obligations.LiftBuildsTheFrame := by
  intro s ext rtr id n w run h
  refine ⟨(liftBody n w).data, ?_, Bytes8.get_keep _ w⟩
  rw [exec_lift_accepted run h, BitVec.ofNat_toNat]
  rfl

/-- Settles O20: the identifiers with no bit above bit 10 are accepted, and the others GEN_ID_RANGE. -/
theorem liftChecksStandardIdentifiers : Obligations.LiftChecksStandardIdentifiers := by
  intro s rtr id n w run
  refine ⟨fun hzero => ?_, fun hhigh => exec_lift_refused run (liftId_standard_wide hhigh)⟩
  exact ⟨_, exec_lift_accepted run (.inl (highBits_eq_zero_iff.mp hzero)),
    writeFrame_low11 .., writeFrame_fault ..⟩

/-- Settles O21: LOW11 accepts every wide extended identifier, FAULT refuses it, and RC takes FAULT. -/
theorem liftWideIdentifierFollowsThePolicy : Obligations.LiftWideIdentifierFollowsThePolicy := by
  refine ⟨fun s rtr id n w run hwide => ⟨fun hlow => ?_, fun hfault => ?_⟩, rfl⟩
  · exact ⟨_, exec_lift_accepted run (.inr ⟨rfl, hlow⟩), rfl,
      writeFrame_low11 .., writeFrame_fault ..⟩
  · exact exec_lift_refused run (liftId_extended_wide hwide hfault)

/-- Settles O22: the meaning of LIFT does not name gen_rtr, and out_rtr is the constant 0 (R39). -/
theorem remoteFlagIsIgnored : Obligations.RemoteFlagIsIgnored := by
  intro s ext rtr rtr' id n w
  exact ⟨by rw [exec_lift, exec_lift], (outputsAreStandardAndNonRemote s).2⟩

/-! ### What a command leaves unchanged (R129, R156, R215) -/

/-- The decoders have the opcodes 0x8 to 0xC (R72). -/
theorem decKind_isSome_eq (i : Instr) :
    (decKind i).isSome = decide (8 ≤ i.opcode.toNat ∧ i.opcode.toNat ≤ 12) := by
  cases i <;> rfl

theorem decKind_of_writesFrame (h : writesFrame i = true) : decKind i = none := by
  rw [writesFrame_eq, decide_eq_true_iff] at h
  rw [← Option.not_isSome_iff_eq_none, decKind_isSome_eq, decide_eq_true_iff]
  omega

theorem Effect.inputs_eq (h : Effect i s t) : t.inputs = s.inputs := by
  cases h with
  | halted => rfl
  | fault => exact raiseFault_inputs ..
  | frame => exact writeFrame_inputs ..
  | result => exact writeRes_inputs ..

/-- Only a decoder that does not fault writes RES. -/
theorem Effect.res_eq (h : Effect i s t) (hnot : decKind i = none ∨ t.fault ≠ s.fault) :
    t.res = s.res := by
  cases h with
  | halted => rfl
  | fault => exact raiseFault_res ..
  | frame => exact writeFrame_res ..
  | result e k p _ hop =>
    obtain hdec | hfault := hnot
    · have hsome := decKind_isSome_eq i
      rw [hdec, decide_eq_true hop] at hsome
      cases hsome
    · exact absurd (writeRes_fault ..) hfault

/-- Settles O43: each effect of a command writes at most one register, of those its opcode allows. -/
theorem commandFrames : Obligations.CommandFrames := by
  intro i s t h
  have heff : Effect i s t := exec_effect h
  exact ⟨heff.cfg_eq, heff.inputs_eq,
    fun hwrites => heff.res_eq (.inl (decKind_of_writesFrame hwrites)),
    fun _ hfault => heff.fr_eq (.inr (.inl hfault)),
    fun hnot => heff.fr_eq (.inl hnot),
    fun hdec => heff.res_eq (.inl hdec),
    fun hfault => ⟨heff.fr_eq (.inr (.inl hfault)), heff.res_eq (.inr hfault)⟩⟩

end Sys2Proof.Machine
end

section
/-! PROOFS. 42_encode: the address check of every constructor (R141), the Emergency payload (R144 to R146),
the Error payload (R148), and the payload of the data kinds (R150, R155). -/

namespace Sys2Proof.Machine

open Sys2Proof.Spec

variable {s : State} {k : MsgKind} {c : Config} {op : BitVec 4} {a : Byte} {b : Body}
  {cause : FaultCause} {st : BitVec 1} {r : BitVec 16} {ok : Bool} {n : BitVec 4} {w : Bytes8}

/-! ### Each constructor is `construct` of its kind and its payload step (R140) -/

theorem exec_encEmg (a : Byte) (st : BitVec 1) (r : BitVec 16) (s : State) :
    exec (.encEmg a st r) s =
      .next (construct .emergency Opcode.encEmg a (emergencyBody s.cfg st r) s) := rfl

theorem exec_encErr (a : Byte) (code : BitVec 16) (s : State) :
    exec (.encErr a code) s = .next (construct .error Opcode.encErr a (errorBody code) s) := rfl

theorem exec_encSent (a : Byte) (ok : Bool) (n : BitVec 4) (w : Bytes8) (s : State) :
    exec (.encSent a ok n w) s =
      .next (construct .sentData Opcode.encSent a (writerBody ok n w) s) := rfl

theorem exec_encReq (a : Byte) (ok : Bool) (n : BitVec 4) (w : Bytes8) (s : State) :
    exec (.encReq a ok n w) s =
      .next (construct .requestData Opcode.encReq a (writerBody ok n w) s) := rfl

theorem exec_encSet (a : Byte) (ok : Bool) (n : BitVec 4) (w : Bytes8) (s : State) :
    exec (.encSet a ok n w) s =
      .next (construct .setData Opcode.encSet a (writerBody ok n w) s) := rfl

/-! ### The address check comes first (R141, R213) -/

/-- Settles O18: PACK_ID refuses the address, and no constructor looks at its payload before that. -/
theorem constructorsRefuseAWideAddress : Obligations.ConstructorsRefuseAWideAddress := by
  rintro s i k _ run hi rfl hwide
  obtain ⟨body, hexec⟩ := exec_constructor hi
  rw [hexec, construct_of_packId_error run (packId_addrRange hwide)]
  rfl

/-! ### With a fitting address, the payload step decides (R140, R143) -/

/-- A good payload is written with R108's identifier and the constructor's own kind (R109). -/
theorem construct_builds (hc : s.cfg.wf = true) (run : s.fault.f = false) (ha : a.toNat ≤ s.cfg.amask) :
    construct k op a (.ok b) s = { s with fr := built s.cfg k a b.len b.data } := by
  rw [construct_of_ok run (packId_kind hc k ha), writeFrame, classify_composed hc k ha]
  rfl

theorem construct_faults (hc : s.cfg.wf = true) (run : s.fault.f = false) (ha : a.toNat ≤ s.cfg.amask) :
    construct k op a (.error cause) s = faulted cause op s :=
  construct_of_body_error run (packId_kind hc k ha)

/-- A 2-byte layout is written with FR.LEN 2, and the other six bytes are 0x00 (R142). -/
theorem construct_two_builds (hc : s.cfg.wf = true) (run : s.fault.f = false)
    (ha : a.toNat ≤ s.cfg.amask) (b0 b1 : Byte) :
    ∃ d : Bytes8, construct k op a (.ok (.two b0 b1)) s = { s with fr := built s.cfg k a 2 d } ∧
      d.b0 = b0 ∧ d.b1 = b1 ∧ ∀ i : Fin 8, 2 ≤ i.val → d.get i = 0 :=
  ⟨_, construct_builds hc run ha, rfl, rfl, two_zero_beyond b0 b1⟩

/-! ### The Emergency payload (R144 to R146) -/

theorem statusByte_eq_statusByteOf (st : BitVec 1) : statusByte st = statusByteOf st := by
  decide +revert

theorem statusByteOf_toNat (st : BitVec 1) : (statusByteOf st).toNat = st.toNat * 128 := by
  decide +revert

/-- Bit 15 of a reason is set exactly on the values from 0x8000 up. -/
theorem getLsbD_15_iff (r : BitVec 16) : r.getLsbD 15 = true ↔ 0x8000 ≤ r.toNat := by
  have hmsb : r.getLsbD 15 = r.msb := r.msb_eq_getLsbD_last.symm
  rw [hmsb, BitVec.msb_eq_true_iff_two_mul_ge]
  omega

/-- R144 to R146 in the terms of the statements: the two refusals, else `{status, reason[14:8]}` and
`reason[7:0]`. -/
theorem emergencyBody_eq (c : Config) (st : BitVec 1) (r : BitVec 16) :
    emergencyBody c st r =
      if c.statusValid (statusByteOf st) = false then .error .statusRange
      else if 0x8000 ≤ r.toNat ∨ c.reasonValid (BitVec.ofNat 15 r.toNat) = false then
        .error .reasonRange
      else .ok (.two (statusByteOf st ||| (r.extractLsb' 8 7).setWidth 8) (r.extractLsb' 0 8)) := by
  simp only [emergencyBody, statusByte_eq_statusByteOf, getLsbD_15_iff, BitVec.ofNat_toNat, ite_or]

theorem emergencyBody_statusRange (hst : c.statusValid (statusByteOf st) = false) :
    emergencyBody c st r = .error .statusRange := by
  rw [emergencyBody_eq, if_pos hst]

theorem emergencyBody_reasonRange (hst : c.statusValid (statusByteOf st) = true)
    (hr : 0x8000 ≤ r.toNat ∨ c.reasonValid (BitVec.ofNat 15 r.toNat) = false) :
    emergencyBody c st r = .error .reasonRange := by
  rw [emergencyBody_eq, if_neg (ne_false_of_eq_true hst), if_pos hr]

theorem emergencyBody_ok (hst : c.statusValid (statusByteOf st) = true) (hbit : r.toNat < 0x8000)
    (hr : c.reasonValid (BitVec.ofNat 15 r.toNat) = true) :
    emergencyBody c st r =
      .ok (.two (statusByteOf st ||| (r.extractLsb' 8 7).setWidth 8) (r.extractLsb' 0 8)) := by
  have hgood : ¬(0x8000 ≤ r.toNat ∨ c.reasonValid (BitVec.ofNat 15 r.toNat) = false) :=
    not_or.mpr ⟨Nat.not_le.mpr hbit, ne_false_of_eq_true hr⟩
  rw [emergencyBody_eq, if_neg (ne_false_of_eq_true hst), if_neg hgood]

theorem lowByte_toNat (x : BitVec 16) : (x.extractLsb' 0 8).toNat = x.toNat % 256 := by
  rw [BitVec.extractLsb'_toNat, Nat.shiftRight_zero]

/-- With bit 15 clear the reason's high part has 7 bits, below the status bit. -/
theorem packedHighByte_toNat (st : BitVec 1) (h : r.toNat < 0x8000) :
    (statusByteOf st ||| (r.extractLsb' 8 7).setWidth 8).toNat = st.toNat * 128 + r.toNat / 256 := by
  have hhigh : r.toNat / 256 < 2 ^ 7 := by omega
  have hpart : ((r.extractLsb' 8 7).setWidth 8).toNat = r.toNat / 256 := by
    rw [BitVec.toNat_setWidth_of_le (by decide), BitVec.extractLsb'_toNat, Nat.shiftRight_eq_div_pow,
      Nat.mod_eq_of_lt hhigh]
  rw [BitVec.toNat_or, statusByteOf_toNat, hpart, Nat.mul_comm]
  exact (Nat.two_pow_add_eq_or_of_lt hhigh st.toNat).symm

/-- Settles O13: the packed body is written, and its two bytes are read off as numbers. -/
theorem encEmgBuildsTheFrame : Obligations.EncEmgBuildsTheFrame := by
  intro s a st r hc run ha hst hbit hr
  obtain ⟨d, hbuilt, hb0, hb1, hzero⟩ := construct_two_builds hc run ha
    (statusByteOf st ||| (r.extractLsb' 8 7).setWidth 8) (r.extractLsb' 0 8)
  refine ⟨d, ?_, ?_, ?_, hzero⟩
  · rw [exec_encEmg, emergencyBody_ok hst hbit hr, hbuilt]
  · rw [hb0, packedHighByte_toNat st hbit]
  · rw [hb1, lowByte_toNat]

/-- Settles O16: the payload step refuses the operands, status before reason, and the constructor faults. -/
theorem encEmgRefusesBadStatusAndReason : Obligations.EncEmgRefusesBadStatusAndReason := by
  intro s a st r hc run ha
  refine ⟨fun hst => ?_, fun hst hr => ?_⟩
  · rw [exec_encEmg, emergencyBody_statusRange hst, construct_faults hc run ha]
    rfl
  · rw [exec_encEmg, emergencyBody_reasonRange hst hr, construct_faults hc run ha]
    rfl

/-! ### The Error payload (R148) -/

theorem highByte_toNat (x : BitVec 16) : (x.extractLsb' 8 8).toNat = x.toNat / 256 := by
  have hlt := x.isLt
  rw [BitVec.extractLsb'_toNat, Nat.shiftRight_eq_div_pow, Nat.mod_eq_of_lt (by omega)]

/-- Settles O14: the payload step refuses no code and lays it out high byte first. -/
theorem encErrBuildsTheFrame : Obligations.EncErrBuildsTheFrame := by
  intro s a code hc run ha
  obtain ⟨d, hbuilt, hb0, hb1, hzero⟩ := construct_two_builds hc run ha
    (code.extractLsb' 8 8) (code.extractLsb' 0 8)
  refine ⟨d, ?_, ?_, ?_, hzero⟩
  · rw [exec_encErr, errorBody, hbuilt]
  · rw [hb0, highByte_toNat]
  · rw [hb1, lowByte_toNat]

/-! ### The payload of the data kinds (R150, R155) -/

theorem writerBody_payloadSize (h : ok = false ∨ 8 < n.toNat) :
    writerBody ok n w = .error .payloadSize := if_pos h

theorem writerBody_ok (h : n.toNat ≤ 8) : writerBody true n w = .ok ⟨n, w.keep n.toNat⟩ := by
  obtain ⟨hbad | hbad, -⟩ | ⟨-, -, hok⟩ := writerBody_cases true n w
  · cases hbad
  · exact absurd h (Nat.not_le.mpr hbad)
  · exact hok

/-- A constructor with the writer's payload step keeps the first wr_len bytes. -/
theorem dataBuilds_of_exec {mk : Byte → Bool → BitVec 4 → Bytes8 → Instr}
    (hexec : ∀ a ok n w s, exec (mk a ok n w) s = .next (construct k op a (writerBody ok n w) s)) :
    dataBuilds k mk := by
  intro s a n w hc run ha hn
  refine ⟨w.keep n.toNat, ?_, Bytes8.get_keep _ w⟩
  rw [hexec, writerBody_ok hn, construct_builds hc run ha]

/-- Settles O15: the three constructors of data share the writer's payload step. -/
theorem encDataBuildsTheFrame : Obligations.EncDataBuildsTheFrame :=
  ⟨dataBuilds_of_exec exec_encSent, dataBuilds_of_exec exec_encReq, dataBuilds_of_exec exec_encSet⟩

/-- Settles O17: the writer's payload step fails, and each constructor faults under its own opcode. -/
theorem encDataRefusesAFailedWriter : Obligations.EncDataRefusesAFailedWriter := by
  intro s a ok n w hc run ha hbad
  rw [exec_encSent, exec_encReq, exec_encSet, writerBody_payloadSize hbad, construct_faults hc run ha,
    construct_faults hc run ha, construct_faults hc run ha]
  exact ⟨rfl, rfl, rfl⟩

end Sys2Proof.Machine
end

section
/-! PROOFS. 43_decode: the prologue that the decoders share (R170, R171, R184), the unpack of each kind
(R172 to R181, R190), and the properties over a constructor or LIFT and a decoder (R185, R186, R188, R189,
R191). -/

namespace Sys2Proof.Machine

open Sys2Proof.Spec

variable {s : State} {i : Instr} {k : MsgKind} {c : Config} {f : FrameReg} {op : BitVec 4} {e : DecErr}
  {p : Payload} {st : BitVec 1} {n : BitVec 4} {w v : Bytes8}

/-! ### Each decoder is `decodeFrame` of its kind and its unpack (R171) -/

theorem exec_decEmg (s : State) :
    exec .decEmg s = .next (decodeFrame .emergency Opcode.decEmg unpackEmergency s) := rfl

theorem exec_decErr (s : State) :
    exec .decErr s = .next (decodeFrame .error Opcode.decErr (fun _ r => unpackError r) s) := rfl

theorem exec_decSent (s : State) :
    exec .decSent s = .next (decodeFrame .sentData Opcode.decSent unpackMessage s) := rfl

theorem exec_decReq (s : State) :
    exec .decReq s = .next (decodeFrame .requestData Opcode.decReq unpackIdentifier s) := rfl

theorem exec_decSet (s : State) :
    exec .decSet s = .next (decodeFrame .setData Opcode.decSet unpackMessage s) := rfl

/-- A decoder is `decodeFrame` of its kind, with an unpack that sees the configuration and FR alone. -/
theorem exec_decoder (h : decKind i = some k) :
    ∃ unpack : Config → FrameReg → Except DecErr Payload,
      ∀ s, exec i s = .next (decodeFrame k i.opcode unpack s) := by
  cases i <;> cases h
  case decEmg => exact ⟨_, exec_decEmg⟩
  case decErr => exact ⟨_, exec_decErr⟩
  case decSent => exact ⟨_, exec_decSent⟩
  case decReq => exact ⟨_, exec_decReq⟩
  case decSet => exact ⟨_, exec_decSet⟩

/-! ### The rules of a running decoder (R170, R171, R201, R203) -/

section Running

variable {unpack : Config → FrameReg → Except DecErr Payload} (run : s.fault.f = false)
include run

theorem decodeFrame_noFrame (hvalid : s.fr.valid = false) :
    decodeFrame k op unpack s = faulted .noFrame op s := by
  simp only [decodeFrame, unlessHalted_running run, if_pos hvalid]
  rfl

variable (hvalid : s.fr.valid = true)
include hvalid

theorem decodeFrame_wrongKind (hkind : s.fr.kind ≠ .msg k) :
    decodeFrame k op unpack s = reported .wrongKind k s := by
  simp only [decodeFrame, unlessHalted_running run, if_neg (ne_false_of_eq_true hvalid), if_pos hkind]
  rfl

variable (hkind : s.fr.kind = .msg k)
include hkind

theorem decodeFrame_of_unpack_error (h : unpack s.cfg s.fr = .error e) :
    decodeFrame k op unpack s = reported e k s := by
  simp only [decodeFrame, unlessHalted_running run, if_neg (ne_false_of_eq_true hvalid),
    if_neg (not_not.mpr hkind), h]
  rfl

theorem decodeFrame_of_unpack_ok (h : unpack s.cfg s.fr = .ok p) :
    decodeFrame k op unpack s = resOk k p s := by
  simp only [decodeFrame, unlessHalted_running run, if_neg (ne_false_of_eq_true hvalid),
    if_neg (not_not.mpr hkind), h]

end Running

/-- Settles O30: the prologue of every decoder faults before its kind check. -/
theorem decodersNeedAFrame : Obligations.DecodersNeedAFrame := by
  intro s i k run hvalid hi
  obtain ⟨unpack, hexec⟩ := exec_decoder hi
  rw [hexec, decodeFrame_noFrame run hvalid]

/-- Settles O29: the prologue of every decoder reports the kind, and the unpack is not reached. -/
theorem decodersCheckTheKindFirst : Obligations.DecodersCheckTheKindFirst := by
  intro s i k run hvalid hi hkind
  obtain ⟨unpack, hexec⟩ := exec_decoder hi
  rw [hexec, decodeFrame_wrongKind run hvalid hkind]

/-! ### Decoders are pure in FR (R184) -/

theorem writesFrame_of_decKind (h : (decKind i).isSome = true) : writesFrame i = false := by
  refine Bool.eq_false_iff.mpr fun hwrites => ?_
  rw [decKind_of_writesFrame hwrites] at h
  cases h

/-- The configuration and a valid FR alone decide which error and which payload fields a decoder writes. -/
theorem exec_decoder_writeRes (h : decKind i = some k) (c : Config) (hvalid : f.valid = true) :
    ∃ e p, ∀ s : State, s.cfg = c → s.fr = f → s.fault.f = false →
      exec i s = .next (writeRes e k p s) := by
  obtain ⟨unpack, hexec⟩ := exec_decoder h
  by_cases hkind : f.kind = .msg k
  · cases hunpack : unpack c f with
    | error e =>
      refine ⟨e, .zero, ?_⟩
      rintro s rfl rfl run
      rw [hexec, decodeFrame_of_unpack_error run hvalid hkind hunpack]
      rfl
    | ok p =>
      refine ⟨.none, p, ?_⟩
      rintro s rfl rfl run
      rw [hexec, decodeFrame_of_unpack_ok run hvalid hkind hunpack, resOk_eq]
  · refine ⟨.wrongKind, .zero, ?_⟩
    rintro s rfl rfl run
    rw [hexec, decodeFrame_wrongKind run hvalid hkind]
    rfl

/-- Settles O34: no effect of a decoder writes FR, and what it writes to RES is fixed by the configuration
and FR. -/
theorem decodersArePureInTheFrame : Obligations.DecodersArePureInTheFrame := by
  refine ⟨fun s t i hi h => (exec_effect h).fr_eq (.inl (writesFrame_of_decKind hi)), ?_⟩
  intro s s' t t' i hi hcfg hfr run run' hvalid h h'
  obtain ⟨k, hk⟩ := Option.isSome_iff_exists.mp hi
  obtain ⟨e, p, hwrite⟩ := exec_decoder_writeRes hk s.cfg hvalid
  rw [hwrite s rfl rfl run] at h
  rw [hwrite s' hcfg.symm hfr.symm run'] at h'
  cases h
  cases h'
  rw [writeRes_res, writeRes_res]

/-! ### The Emergency unpack (R172 to R175, R190) -/

/-- A byte below a word, as a number. -/
theorem toNat_append_byte {m : Nat} (x : BitVec m) (y : Byte) :
    (x ++ y).toNat = x.toNat * 256 + y.toNat := by
  rw [BitVec.toNat_append, ← Nat.shiftLeft_add_eq_or_of_lt y.isLt, Nat.shiftLeft_eq]

theorem extract_status {b0 : Byte} (h : st.toNat = b0.toNat / 128) : b0.extractLsb' 7 1 = st := by
  have hlt := b0.isLt
  apply BitVec.eq_of_toNat_eq
  rw [BitVec.extractLsb'_toNat, Nat.shiftRight_eq_div_pow, h]
  omega

/-- The byte handed to STATUS_VALID is the status bit in its place (R173). -/
theorem mask_status (b0 : Byte) : b0 &&& 0x80#8 = statusByteOf (b0.extractLsb' 7 1) := by
  decide +revert

theorem append_reason {r : BitVec 15} {b0 b1 : Byte} (h : r.toNat = b0.toNat % 128 * 256 + b1.toNat) :
    b0.extractLsb' 0 7 ++ b1 = r := by
  apply BitVec.eq_of_toNat_eq
  rw [toNat_append_byte, BitVec.extractLsb'_toNat, Nat.shiftRight_zero, h]

/-- R173 to R175 in the terms of the statements. -/
theorem unpackEmergency_eq {r : BitVec 15} (hst : st.toNat = f.data.b0.toNat / 128)
    (hr : r.toNat = f.data.b0.toNat % 128 * 256 + f.data.b1.toNat) :
    unpackEmergency c f =
      if c.statusValid (statusByteOf st) = false then .error .invalidStatus
      else if c.reasonValid r = false then .error .invalidReason
      else .ok (.emergency st r) := by
  simp only [unpackEmergency, mask_status, extract_status hst, append_reason hr]

/-- Settles O24: both checks of the unpack pass. -/
theorem decEmgReadsStatusAndReason : Obligations.DecEmgReadsStatusAndReason := by
  intro s st r run hvalid hkind hst hr hstatus hreason
  have hunpack : unpackEmergency s.cfg s.fr = .ok (.emergency st r) := by
    rw [unpackEmergency_eq hst hr, if_neg (ne_false_of_eq_true hstatus),
      if_neg (ne_false_of_eq_true hreason)]
  rw [exec_decEmg, decodeFrame_of_unpack_ok run hvalid hkind hunpack]
  rfl

/-- Settles O25: the unpack checks the status first, and the reason only where the status is valid. -/
theorem decEmgErrorOrder : Obligations.DecEmgErrorOrder := by
  intro s st r run hvalid hkind hst hr
  refine ⟨fun hstatus => ?_, fun hstatus hreason => ?_⟩
  · have hunpack : unpackEmergency s.cfg s.fr = .error .invalidStatus := by
      rw [unpackEmergency_eq hst hr, if_pos hstatus]
    rw [exec_decEmg, decodeFrame_of_unpack_error run hvalid hkind hunpack]
  · have hunpack : unpackEmergency s.cfg s.fr = .error .invalidReason := by
      rw [unpackEmergency_eq hst hr, if_neg (ne_false_of_eq_true hstatus), if_pos hreason]
    rw [exec_decEmg, decodeFrame_of_unpack_error run hvalid hkind hunpack]

/-! ### The Error unpack (R176) -/

/-- Settles O26: the unpack refuses no bytes, and joins the two of them high byte first. -/
theorem decErrReadsTheCode : Obligations.DecErrReadsTheCode := by
  intro s code run hvalid hkind hcode
  have happend : s.fr.data.b0 ++ s.fr.data.b1 = code := by
    apply BitVec.eq_of_toNat_eq
    rw [toNat_append_byte, hcode]
  rw [exec_decErr, decodeFrame_of_unpack_ok run hvalid hkind rfl, happend]
  rfl

/-! ### The windows of the data kinds (R180, R181) -/

/-- A decoder with the message unpack hands over the whole buffer. -/
theorem messageDecodes_of_exec
    (hexec : ∀ s, exec i s = .next (decodeFrame k op unpackMessage s)) : messageDecodes k i := by
  intro s run hvalid hkind
  refine ⟨fun hok => ?_, fun hbad => ?_⟩
  · have hunpack : unpackMessage s.cfg s.fr = .ok (.window 8 s.fr.data) :=
      if_neg (ne_false_of_eq_true hok)
    rw [hexec, decodeFrame_of_unpack_ok run hvalid hkind hunpack]
    rfl
  · have hunpack : unpackMessage s.cfg s.fr = .error .payloadParse := if_pos hbad
    rw [hexec, decodeFrame_of_unpack_error run hvalid hkind hunpack]

/-- Settles O27: the two decoders of messages share the message unpack. -/
theorem decMessageTakesTheFullWindow : Obligations.DecMessageTakesTheFullWindow :=
  ⟨messageDecodes_of_exec exec_decSent, messageDecodes_of_exec exec_decSet⟩

theorem keep_congr {m : Nat} (h : ∀ j : Fin 8, j.val < m → w.get j = v.get j) :
    w.keep m = v.keep m := by
  refine Bytes8.ext_get fun j => ?_
  rw [Bytes8.get_keep, Bytes8.get_keep]
  exact if_ctx_congr Iff.rfl (h j) fun _ => rfl

/-- Settles O28: the unpack hands over the first FR.LEN bytes, and PARSE_DID_OK keeps no more of a buffer. -/
theorem decReqTakesTheLengthPrefix : Obligations.DecReqTakesTheLengthPrefix := by
  refine ⟨fun s run hvalid hkind => ⟨fun hok => ?_, fun hbad => ?_⟩, fun c n w v hsame => ?_⟩
  · have hunpack : unpackIdentifier s.cfg s.fr = .ok (.window s.fr.len (s.fr.data.keep s.fr.len.toNat)) :=
      if_neg (ne_false_of_eq_true hok)
    refine ⟨s.fr.data.keep s.fr.len.toNat, ?_, Bytes8.get_keep _ _⟩
    rw [exec_decReq, decodeFrame_of_unpack_ok run hvalid hkind hunpack]
    rfl
  · have hunpack : unpackIdentifier s.cfg s.fr = .error .payloadParse := if_pos hbad
    rw [exec_decReq, decodeFrame_of_unpack_error run hvalid hkind hunpack]
  · rw [← c.parseDidOk_keep n w, keep_congr hsame, c.parseDidOk_keep]

/-! ### A constructor, then a decoder (R185, R186, R188, R189) -/

/-- Settles O49: the Frame that a constructor writes is valid and has the constructor's kind (R109). -/
theorem kindIsolation : Obligations.KindIsolation := by
  intro s t i j k l hc run hi hj hne h hok
  obtain ⟨ha, b, rfl⟩ := exec_constructor_ok hc run hi h hok
  have hbuilt : (writeFrame (BitVec.ofNat 11 (identNat s.cfg k i.ports.addr)) b s).fr.kind = .msg k :=
    classify_composed hc k ha
  refine decodersCheckTheKindFirst _ j l hok rfl hj fun hkind => hne ?_
  rw [hbuilt] at hkind
  exact (Kind.msg.inj hkind).symm

section RoundTrip

variable {a : Byte} (hc : s.cfg.wf = true) (run : s.fault.f = false) (ha : a.toNat ≤ s.cfg.amask)
include hc run ha

/-- The bytes that ENC.EMG packs, and DEC.EMG's whole next state on them. -/
theorem encEmg_decEmg {r : BitVec 16} (hst : s.cfg.statusValid (statusByteOf st) = true)
    (hbit : r.toNat < 0x8000) (hr : s.cfg.reasonValid (BitVec.ofNat 15 r.toNat) = true) :
    ∃ t, exec (.encEmg a st r) s = .next t ∧ t.fr.data.b0.toNat = st.toNat * 128 + r.toNat / 256 ∧
      t.fr.data.b1.toNat = r.toNat % 256 ∧
      exec .decEmg t = .next { t with
        res := ⟨true, .none, .msg .emergency, st, BitVec.ofNat 15 r.toNat, 0, 0, .zero⟩ } := by
  obtain ⟨d, henc, hb0, hb1, -⟩ := encEmgBuildsTheFrame s a st r hc run ha hst hbit hr
  have hstatus : st.toNat = d.b0.toNat / 128 := by omega
  have hreason : (BitVec.ofNat 15 r.toNat).toNat = d.b0.toNat % 128 * 256 + d.b1.toNat := by
    rw [BitVec.toNat_ofNat]
    omega
  exact ⟨_, henc, hb0, hb1, decEmgReadsStatusAndReason _ st _ run rfl rfl hstatus hreason hst hr⟩

/-- The bytes that ENC.ERR lays out, and DEC.ERR's whole next state on them. -/
theorem encErr_decErr (code : BitVec 16) :
    ∃ t, exec (.encErr a code) s = .next t ∧ t.fr.data.b0.toNat = code.toNat / 256 ∧
      t.fr.data.b1.toNat = code.toNat % 256 ∧
      exec .decErr t = .next { t with res := ⟨true, .none, .msg .error, 0, 0, code, 0, .zero⟩ } := by
  obtain ⟨d, henc, hb0, hb1, -⟩ := encErrBuildsTheFrame s a code hc run ha
  have hcode : code.toNat = d.b0.toNat * 256 + d.b1.toNat := by omega
  exact ⟨_, henc, hb0, hb1, decErrReadsTheCode _ code run rfl rfl hcode⟩

variable (hn : n.toNat ≤ 8) (hv : ∀ j : Fin 8, v.get j = if j.val < n.toNat then w.get j else 0)
include hn hv

/-- The buffer that a data constructor writes holds the writer's first wr_len bytes, zero-padded. -/
theorem dataBuilds_padded {mk : Byte → Bool → BitVec 4 → Bytes8 → Instr} (hmk : dataBuilds k mk) :
    exec (mk a true n w) s = .next { s with fr := built s.cfg k a n v } := by
  obtain ⟨d, henc, hd⟩ := hmk s a n w hc run ha hn
  obtain rfl : d = v := Bytes8.ext_get fun j => (hd j).trans (hv j).symm
  exact henc

theorem message_roundTrip {mk : Byte → Bool → BitVec 4 → Bytes8 → Instr} (hmk : dataBuilds k mk)
    (hdec : messageDecodes k i) (hok : s.cfg.parseMsgOk v = true) :
    ∃ t u, exec (mk a true n w) s = .next t ∧ exec i t = .next u ∧ u.res.err = .none ∧
      u.res.pb = v := by
  obtain ⟨hread, -⟩ := hdec { s with fr := built s.cfg k a n v } run rfl rfl
  exact ⟨_, _, dataBuilds_padded hc run ha hn hv hmk, hread hok, rfl, rfl⟩

theorem identifier_roundTrip (hok : s.cfg.parseDidOk n v = true) :
    ∃ t u, exec (.encReq a true n w) s = .next t ∧ exec .decReq t = .next u ∧
      u.res.err = .none ∧ u.res.plen = n ∧ u.res.pb = v := by
  obtain ⟨-, hreq, -⟩ := encDataBuildsTheFrame
  obtain ⟨hdec, -⟩ := decReqTakesTheLengthPrefix
  obtain ⟨hread, -⟩ := hdec { s with fr := built s.cfg .requestData a n v } run rfl rfl
  obtain ⟨d, hu, hd⟩ := hread hok
  refine ⟨_, _, dataBuilds_padded hc run ha hn hv hreq, hu, rfl, rfl, Bytes8.ext_get fun j => ?_⟩
  change d.get j = v.get j
  rw [hd j]
  split
  · rfl
  · rw [hv j, if_neg ‹_›]

end RoundTrip

/-- Settles O48: what each constructor builds is a Frame that the decoder of its kind reads back. -/
theorem roundTripOfEveryKind : Obligations.RoundTripOfEveryKind := by
  intro s a hc run ha
  obtain ⟨hsent, -, hset⟩ := encDataBuildsTheFrame
  obtain ⟨hdecSent, hdecSet⟩ := decMessageTakesTheFullWindow
  refine ⟨fun st r hst hbit hr => ?_, fun code => ?_, fun n w v hn hv =>
    ⟨message_roundTrip hc run ha hn hv hsent hdecSent, message_roundTrip hc run ha hn hv hset hdecSet,
      identifier_roundTrip hc run ha hn hv⟩⟩
  · obtain ⟨t, henc, -, -, hdec⟩ := encEmg_decEmg hc run ha hst hbit hr
    exact ⟨t, _, henc, hdec, rfl, rfl, (BitVec.toNat_ofNat ..).trans (Nat.mod_eq_of_lt hbit)⟩
  · obtain ⟨t, henc, -, -, hdec⟩ := encErr_decErr hc run ha code
    exact ⟨t, _, henc, hdec, rfl, rfl⟩

/-- Settles O50: the packing and its inverse at status 1 and reason 0x1234. -/
theorem emergencyPackingOf1234 : Obligations.EmergencyPackingOf1234 := by
  intro s a hc run ha hst hr
  obtain ⟨t, henc, hb0, hb1, hdec⟩ :=
    encEmg_decEmg (st := 1) (r := 0x1234) hc run ha hst (by decide) hr
  exact ⟨t, _, henc, BitVec.eq_of_toNat_eq hb0, BitVec.eq_of_toNat_eq hb1, hdec, rfl, rfl, rfl⟩

/-- Settles O51: the layout and its inverse at code 0xABCD. -/
theorem errorByteOrderOfABCD : Obligations.ErrorByteOrderOfABCD := by
  intro s a hc run ha
  obtain ⟨t, henc, hb0, hb1, hdec⟩ := encErr_decErr hc run ha 0xABCD
  exact ⟨t, _, henc, BitVec.eq_of_toNat_eq hb0, BitVec.eq_of_toNat_eq hb1, hdec, rfl, rfl⟩

/-! ### LIFT, then the kind (R191) -/

/-- Settles O23: an 11-bit identifier is accepted in both forms, and a composed one has its kind (R109). -/
theorem liftThenClassifySentData : Obligations.LiftThenClassifySentData := by
  intro s a ext rtr pid n w hc run ha hid
  have hle : (pid.setWidth 29).toNat ≤ 0x7FF := by
    rw [BitVec.toNat_setWidth_of_le (by decide)]
    exact Nat.le_of_lt_succ pid.isLt
  have hpid : (pid.setWidth 29).setWidth 11 = pid := by simp
  refine ⟨_, exec_lift_accepted run (.inl hle), rfl, ?_, ?_, writeFrame_res .., writeFrame_fault ..⟩
  · rw [writeFrame_fr, hpid]
  · obtain ⟨-, rfl⟩ := packId_kind_ok hc hid
    rw [writeFrame_fr, hpid]
    exact classify_composed hc .sentData ha

end Sys2Proof.Machine
end

section
/-! PROOFS. 60_exceptions: the decode errors (R200 to R202), precise faults (R210), the table of the faults in
its order (R211, R213), and the halted block (R212). -/

namespace Sys2Proof.Machine

open Sys2Proof.Spec

variable {s t : State} {i : Instr} {k : MsgKind} {c : Config} {op : BitVec 4}
  {unpack : Config → FrameReg → Except DecErr Payload}

/-! ### Decode errors (R200 to R202) -/

/-- Settles O31: over a valid FR a decoder reports an error with the zero payload, or no error. -/
theorem decodeErrorWritesZeroPayload : Obligations.DecodeErrorWritesZeroPayload := by
  intro s t i k run hvalid hi h herr
  obtain ⟨unpack, hexec⟩ := exec_decoder hi
  rw [hexec] at h
  cases h
  obtain ⟨hnone, -⟩ | ⟨-, -, ht⟩ | ⟨e, -, -, -, ht⟩ | ⟨p, -, -, -, ht⟩ := decodeFrame_cases
    (k := k) (op := i.opcode) (unpack := unpack) run
  · rw [hvalid] at hnone; cases hnone
  · rw [ht]; rfl
  · rw [ht]; rfl
  · rw [ht] at herr; exact absurd rfl herr

/-- The errors that a decoder can report: WRONG_KIND, and those of its unpack (R203). -/
theorem decodeFrame_err_mem {es : List DecErr} (hunpack : ∀ e, unpack s.cfg s.fr = .error e → e ∈ es)
    (hres : (decodeFrame k op unpack s).res ≠ s.res) :
    (decodeFrame k op unpack s).res.err ∈ .none :: .wrongKind :: es := by
  cases run : s.fault.f with
  | true => exact absurd (congrArg State.res (unlessHalted_halted run)) hres
  | false =>
    obtain ⟨-, ht⟩ | ⟨-, -, ht⟩ | ⟨e, -, -, he, ht⟩ | ⟨p, -, -, -, ht⟩ := decodeFrame_cases
      (k := k) (op := op) (unpack := unpack) run <;> rw [ht] at hres ⊢
    · exact absurd rfl hres
    · exact .tail _ (.head _)
    · exact .tail _ (.tail _ (hunpack e he))
    · exact .head _

theorem unpackEmergency_error {r : FrameReg} {e : DecErr} (h : unpackEmergency c r = .error e) :
    e ∈ [.invalidStatus, .invalidReason] := by
  unfold unpackEmergency at h
  dsimp only at h
  split at h
  · cases h; exact .head _
  · split at h
    · cases h; exact .tail _ (.head _)
    · cases h

theorem unpackMessage_error {r : FrameReg} {e : DecErr} (h : unpackMessage c r = .error e) :
    e ∈ [.payloadParse] := by
  unfold unpackMessage at h
  split at h
  · cases h; exact .head _
  · cases h

theorem unpackIdentifier_error {r : FrameReg} {e : DecErr} (h : unpackIdentifier c r = .error e) :
    e ∈ [.payloadParse] := by
  unfold unpackIdentifier at h
  split at h
  · cases h; exact .head _
  · cases h

/-- Settles O32: only a decoder writes RES, and each decoder reports the errors of its prologue and its
unpack. -/
theorem decodeErrorsByCommand : Obligations.DecodeErrorsByCommand := by
  refine ⟨fun s t i h hres => ?_, rfl⟩
  have hdec : decKind i ≠ none := fun hnone => hres ((exec_effect h).res_eq (.inl hnone))
  cases i
  case decEmg =>
    cases h
    exact .inl ⟨rfl, decodeFrame_err_mem (fun _ => unpackEmergency_error) hres⟩
  case decErr =>
    cases h
    exact .inr (.inl ⟨rfl, decodeFrame_err_mem (fun _ => nofun) hres⟩)
  case decSent | decSet =>
    cases h
    exact .inr (.inr ⟨by decide, decodeFrame_err_mem (fun _ => unpackMessage_error) hres⟩)
  case decReq =>
    cases h
    exact .inr (.inr ⟨by decide, decodeFrame_err_mem (fun _ => unpackIdentifier_error) hres⟩)
  all_goals exact absurd rfl hdec

/-- Settles O33: what a decoder writes is fixed by the configuration and FR, which it leaves unchanged. -/
theorem decodeDoesNotHaltTheBlock : Obligations.DecodeDoesNotHaltTheBlock := by
  intro s i k run hvalid hi
  obtain ⟨e, p, hwrite⟩ := exec_decoder_writeRes hi s.cfg hvalid
  exact ⟨writeRes e k p s, hwrite s rfl rfl run, writeRes_fault .., writeRes_fr .., rfl,
    hwrite (writeRes e k p s) rfl rfl run⟩

/-! ### The halted block and precise faults (R210, R212) -/

theorem Effect.eq_of_halted (h : Effect i s t) (hhalt : s.fault.f = true) : t = s := by
  cases h with
  | halted => rfl
  | fault _ run | frame _ _ run | result _ _ _ run => rw [run] at hhalt; cases hhalt

theorem exec_halted (i : Instr) (hhalt : s.fault.f = true) : exec i s = .next s := by
  obtain ⟨t, h⟩ := exec_total i s
  rw [h, (exec_effect h).eq_of_halted hhalt]

/-- Settles O39: of the effects of a command a halted block has only the empty one, and no output port shows
the host's inputs. -/
theorem haltedBlockIgnoresCommands : Obligations.HaltedBlockIgnoresCommands := by
  refine ⟨fun i s => exec_halted i, fun c s rest hhalt hin => ?_, fun s hhalt => ⟨hhalt, ?_⟩⟩
  · exact ⟨_, (step_of_inputs_command hin).trans (exec_halted _ hhalt), rfl, rfl⟩
  · exact ne_false_of_eq_true hhalt

/-- Settles O40: of the effects of a command only a fault writes FAULT, with a cause of R211's table. -/
theorem faultsArePrecise : Obligations.FaultsArePrecise := by
  intro i s t h hne
  cases exec_effect h with
  | halted => exact absurd rfl hne
  | frame => exact absurd (writeFrame_fault ..) hne
  | result => exact absurd (writeRes_fault ..) hne
  | fault cause run hop =>
    refine ⟨run, cause, ?_, rfl⟩
    rintro rfl
    cases hop

/-! ### The first defect of a command's steps (R213) -/

/-- The cause with which a step of a command refuses, if it does. -/
def defect {α : Type} : Except FaultCause α → Option FaultCause
  | .error cause => some cause
  | .ok _ => none

/-- The command with opcode `op` leads from `s` to `t` by taking the fault of the first defect; without one it
leaves FAULT unchanged. -/
def FaultsWith (first : Option FaultCause) (op : BitVec 4) (s t : State) : Prop :=
  match first with
  | some cause => t = faulted cause op s
  | none => t.fault = s.fault

section Running

variable (run : s.fault.f = false)
include run

theorem construct_faultsWith (addr : Byte) (body : Except FaultCause Body) :
    FaultsWith ((defect (packId s.cfg (s.cfg.typeCode k) addr)).or (defect body)) op s
      (construct k op addr body s) := by
  obtain ⟨cause, hid, ht⟩ | ⟨id, cause, hid, rfl, ht⟩ | ⟨id, b, hid, rfl, ht⟩ := construct_cases
    (k := k) (op := op) (addr := addr) (body := body) run <;> rw [hid, ht] <;> rfl

theorem liftFrame_faultsWith (ext : Bool) (id : BitVec 29) (body : Body) :
    FaultsWith (defect (liftId s.cfg ext id)) op s (liftFrame op ext id body s) := by
  obtain ⟨cause, hid, ht⟩ | ⟨id', hid, ht⟩ := liftFrame_cases
    (op := op) (genExt := ext) (genId := id) (body := body) run <;> rw [hid, ht] <;> rfl

theorem decodeFrame_faultsWith :
    FaultsWith (if s.fr.valid = false then some .noFrame else none) op s (decodeFrame k op unpack s) := by
  obtain ⟨hvalid, ht⟩ | ⟨hvalid, -, ht⟩ | ⟨e, hvalid, -, -, ht⟩ | ⟨p, hvalid, -, -, ht⟩ :=
    decodeFrame_cases (k := k) (op := op) (unpack := unpack) run <;> rw [hvalid, ht] <;> rfl

end Running

/-! ### The rows of R211's table that each step answers for -/

/-- ADDR_RANGE and ID_RANGE are the defects of PACK_ID, in its order (R102, R103). -/
theorem find?_packId (hab : s.cfg.ab ≤ 8) (hi : encKind i = some k) :
    [.addrRange, .idRange].find? (faultCondition s i) =
      defect (packId s.cfg (s.cfg.typeCode k) i.ports.addr) := by
  have haddr : faultCondition s i .addrRange = decide (s.cfg.amask < i.ports.addr.toNat) := by
    simp [faultCondition, hi]
  have hrange : faultCondition s i .idRange = decide (0x7FF < identNat s.cfg k i.ports.addr) := by
    simp [faultCondition, hi]
  by_cases hwide : s.cfg.amask < i.ports.addr.toNat
  · rw [packId_addrRange hwide]
    simp [haddr, hwide, defect]
  · rw [packId_fits hab _ (Nat.le_of_not_lt hwide), ← identNat]
    by_cases hover : 0x7FF < identNat s.cfg k i.ports.addr <;> simp [haddr, hrange, hwide, hover, defect]

/-- STATUS_RANGE and REASON_RANGE are the defects of the Emergency payload, in its order (R146). -/
theorem find?_emergencyBody (s : State) (a : Byte) (st : BitVec 1) (r : BitVec 16) :
    [.statusRange, .reasonRange].find? (faultCondition s (.encEmg a st r)) =
      defect (emergencyBody s.cfg st r) := by
  have hstatus : faultCondition s (.encEmg a st r) .statusRange =
      !s.cfg.statusValid (statusByteOf st) := rfl
  have hreason : faultCondition s (.encEmg a st r) .reasonRange = true ↔
      0x8000 ≤ r.toNat ∨ s.cfg.reasonValid (BitVec.ofNat 15 r.toNat) = false := by
    change (decide _ || !_) = true ↔ _
    rw [Bool.or_eq_true, decide_eq_true_iff, Bool.not_eq_true']
    rfl
  cases hst : s.cfg.statusValid (statusByteOf st) with
  | false =>
    rw [emergencyBody_statusRange hst]
    simp [hstatus, hst, defect]
  | true =>
    rw [List.find?_cons_of_neg (by simp [hstatus, hst])]
    by_cases hr : 0x8000 ≤ r.toNat ∨ s.cfg.reasonValid (BitVec.ofNat 15 r.toNat) = false
    · rw [emergencyBody_reasonRange hst hr, List.find?_cons_of_pos (hreason.mpr hr)]
      rfl
    · rw [emergencyBody_eq, hst, if_neg Bool.noConfusion, if_neg hr,
        List.find?_cons_of_neg (mt hreason.mp hr)]
      rfl

/-- PAYLOAD_SIZE is the defect of the writer's payload step (R150). -/
theorem find?_writerBody (hi : encKind i ∈ [some .sentData, some .requestData, some .setData]) :
    [.payloadSize].find? (faultCondition s i) =
      defect (writerBody i.ports.wrOk i.ports.wrLen i.ports.wrBytes) := by
  have hsize : faultCondition s i .payloadSize =
      (!i.ports.wrOk || decide (8 < i.ports.wrLen.toNat)) := by
    rw [faultCondition, decide_eq_true hi, Bool.true_and]
  obtain ⟨hbad, hbody⟩ | ⟨hok, hlen, hbody⟩ :=
    writerBody_cases i.ports.wrOk i.ports.wrLen i.ports.wrBytes <;> rw [hbody]
  · simp [hsize, hbad, defect]
  · simp [hsize, hok, hlen, defect]

/-- GEN_ID_RANGE and EXT_ID_WIDE are the defects of LIFT's identifier intake (R121, R123). -/
theorem find?_liftId (s : State) (ext rtr : Bool) (id : BitVec 29) (n : BitVec 4) (w : Bytes8) :
    [.genIdRange, .extIdWide].find? (faultCondition s (.lift ext rtr id n w)) =
      defect (liftId s.cfg ext id) := by
  have hgen : faultCondition s (.lift ext rtr id n w) .genIdRange =
      (!ext && decide (0x7FF < id.toNat)) := rfl
  have hext : faultCondition s (.lift ext rtr id n w) .extIdWide =
      (ext && decide (0x7FF < id.toNat) && decide (s.cfg.extWide = .fault)) := rfl
  obtain ⟨rfl, hhigh, hid⟩ | ⟨rfl, hwide, hpolicy, hid⟩ | ⟨hzero, hlow, hid⟩ :=
    liftId_cases s.cfg ext id <;> rw [hid]
  · rw [ne_eq, highBits_eq_zero_iff, Nat.not_le] at hhigh
    simp [hgen, hhigh, defect]
  · simp [hgen, hext, hwide, hpolicy, defect]
  · cases ext with
    | false => simp [hgen, hext, highBits_eq_zero_iff.mp (hzero rfl), defect]
    | true =>
      by_cases hwide : 0x7FF < id.toNat
      · simp [hgen, hext, hlow rfl hwide, defect]
      · simp [hgen, hext, hwide, defect]

/-! ### Whole commands against the table (R211, R213) -/

/-- A constructor takes the first fault of its rows: those of PACK_ID, then those of its payload step. -/
theorem constructor_faultsWith (hab : s.cfg.ab ≤ 8) (run : s.fault.f = false) (hi : encKind i = some k)
    {rows : List FaultCause} {body : Except FaultCause Body}
    (horder : faultOrder.find? (faultCondition s i) =
      (([.addrRange, .idRange] : List FaultCause) ++ rows).find? (faultCondition s i))
    (hrows : rows.find? (faultCondition s i) = defect body) :
    FaultsWith (faultOrder.find? (faultCondition s i)) i.opcode s
      (construct k i.opcode i.ports.addr body s) := by
  rw [horder, List.find?_append, find?_packId hab hi, hrows]
  exact construct_faultsWith run i.ports.addr body

/-- The one row of a decoder is NO_FRAME. -/
theorem find?_of_decKind (hi : decKind i = some k) :
    faultOrder.find? (faultCondition s i) = if s.fr.valid = false then some .noFrame else none := by
  have horder : faultOrder.find? (faultCondition s i) = [.noFrame].find? (faultCondition s i) := by
    cases i <;> cases hi <;> rfl
  rw [horder, List.find?_singleton, faultCondition, hi]
  simp

theorem decoder_faultsWith (run : s.fault.f = false) (hi : decKind i = some k) (h : exec i s = .next t) :
    FaultsWith (faultOrder.find? (faultCondition s i)) i.opcode s t := by
  obtain ⟨unpack, hexec⟩ := exec_decoder hi
  rw [hexec] at h
  cases h
  rw [find?_of_decKind hi]
  exact decodeFrame_faultsWith run

/-- The first row of the table, for the commands it names. -/
theorem reserved_faultsWith (run : s.fault.f = false) (hop : i.opcode.toNat ∈ [0x5, 0x6, 0xD, 0xE, 0xF])
    (h : exec i s = .next t) : FaultsWith (faultOrder.find? (faultCondition s i)) i.opcode s t := by
  have hfirst : faultOrder.find? (faultCondition s i) = some .illegalCommand :=
    List.find?_cons_of_pos (decide_eq_true hop)
  rw [exec_reserved hop run] at h
  cases h
  rw [hfirst]
  rfl

/-- Every command faults with the first row of the table that holds for it; the rows of other commands fail by
their "raised by" column. -/
theorem exec_faultsWith (hab : s.cfg.ab ≤ 8) (run : s.fault.f = false) (h : exec i s = .next t) :
    FaultsWith (faultOrder.find? (faultCondition s i)) i.opcode s t := by
  cases i
  case encEmg a st r =>
    cases h
    exact constructor_faultsWith hab run rfl (rows := [.statusRange, .reasonRange]) rfl
      (find?_emergencyBody s a st r)
  case encErr a code =>
    cases h
    exact constructor_faultsWith hab run rfl (rows := []) rfl rfl
  case encSent | encReq | encSet =>
    cases h
    exact constructor_faultsWith hab run rfl (rows := [.payloadSize]) rfl
      (find?_writerBody (by simp [encKind]))
  case lift ext rtr id n w =>
    cases h
    have horder : faultOrder.find? (faultCondition s (.lift ext rtr id n w)) =
        [.genIdRange, .extIdWide].find? (faultCondition s (.lift ext rtr id n w)) := rfl
    rw [horder, find?_liftId]
    exact liftFrame_faultsWith run ext id (liftBody n w)
  case decEmg | decErr | decSent | decReq | decSet => exact decoder_faultsWith run rfl h
  case reserved5 | reserved6 | reservedD | reservedE | reservedF =>
    exact reserved_faultsWith run (by decide) h

/-- Settles O41: `exec_faultsWith` for every command, and the codes by evaluation. -/
theorem faultsAreExactlyTheTable : Obligations.FaultsAreExactlyTheTable :=
  ⟨fun _ _ _ hab run h => exec_faultsWith hab run h, rfl, rfl⟩

end Sys2Proof.Machine
end

section
/-! PROOFS. 70_reset_and_hazards: the reset state and its invariant (R230, R232), and how a run of commands
from it ends (R247). -/

namespace Sys2Proof.Machine

variable {s t : State} {i : Instr}

/-! ### Reset (R230) -/

/-- Only reset clears FAULT: idling keeps it, and a halted block ignores a command (R212, R216). -/
theorem inputs_of_step_clears_fault (h : step s = .next t) (hhalt : s.fault.f = true)
    (hclear : t.fault.f = false) : ∃ cmd rest, s.inputs = ⟨true, cmd⟩ :: rest := by
  have hne : t.fault ≠ s.fault := fun heq => by rw [heq, hhalt] at hclear; cases hclear
  obtain ⟨-, rfl⟩ | ⟨⟨rst, cmd⟩, rest, hin, ⟨rfl, -⟩ | ⟨-, -, rfl⟩ | ⟨c, -, -, hexec⟩⟩ := step_cases h
  · exact absurd rfl hne
  · exact ⟨cmd, rest, hin⟩
  · exact absurd rfl hne
  · obtain rfl := (exec_effect hexec).eq_of_halted hhalt
    exact absurd rfl hne

/-- Settles O1: the rule of `step` under rst, and the inversion of `step` for the converse. -/
theorem resetRestoresEveryRegister : Obligations.ResetRestoresEveryRegister :=
  ⟨fun _ _ _ hin => step_of_inputs_reset hin, fun _ _ => inputs_of_step_clears_fault,
    rfl, rfl, rfl, rfl, rfl, rfl⟩

/-- The reset state is a fixed point of reset. -/
theorem resetBlock_resetWith (c : Config) : resetBlock (.resetWith c) = .resetWith c := rfl

theorem resetWith_inv {c : Config} (hc : c.wf = true) : (State.resetWith c).Inv := by
  rw [← resetBlock_resetWith]
  exact resetBlock_inv hc

/-- Settles O47: reset establishes the invariant, and the configuration fixed before it is well formed. -/
theorem resetHasTheInvariant : Obligations.ResetHasTheInvariant :=
  ⟨fun _ => resetWith_inv, resetWith_inv Config.given_wf⟩

/-! ### A command neither reads nor writes the host's later inputs (log 3) -/

section WithInputs

variable (xs : List HostInput)

theorem unlessHalted_withInputs {run : State → State}
    (hrun : run { s with inputs := xs } = { run s with inputs := xs }) :
    unlessHalted run { s with inputs := xs } = { unlessHalted run s with inputs := xs } := by
  unfold unlessHalted
  split
  · rfl
  · exact hrun

theorem construct_withInputs (k : MsgKind) (op : BitVec 4) (addr : Byte) (body : Except FaultCause Body) :
    construct k op addr body { s with inputs := xs } =
      { construct k op addr body s with inputs := xs } := by
  refine unlessHalted_withInputs xs ?_
  dsimp only
  cases packId s.cfg (s.cfg.typeCode k) addr with
  | error cause => rfl
  | ok id => cases body <;> rfl

theorem liftFrame_withInputs (op : BitVec 4) (ext : Bool) (id : BitVec 29) (b : Body) :
    liftFrame op ext id b { s with inputs := xs } = { liftFrame op ext id b s with inputs := xs } := by
  refine unlessHalted_withInputs xs ?_
  dsimp only
  cases liftId s.cfg ext id <;> rfl

theorem decodeFrame_withInputs (k : MsgKind) (op : BitVec 4)
    (unpack : Config → FrameReg → Except DecErr Payload) :
    decodeFrame k op unpack { s with inputs := xs } =
      { decodeFrame k op unpack s with inputs := xs } := by
  refine unlessHalted_withInputs xs ?_
  dsimp only
  split
  · rfl
  · split
    · rfl
    · cases unpack s.cfg s.fr <;> rfl

theorem reservedCommand_withInputs (op : BitVec 4) :
    reservedCommand op { s with inputs := xs } = { reservedCommand op s with inputs := xs } :=
  unlessHalted_withInputs xs rfl

theorem exec_withInputs (h : exec i s = .next t) :
    exec i { s with inputs := xs } = .next { t with inputs := xs } := by
  cases i <;> cases h
  case encEmg | encErr | encSent | encReq | encSet =>
    exact congrArg _ (construct_withInputs ..)
  case lift => exact congrArg _ (liftFrame_withInputs ..)
  case decEmg | decErr | decSent | decReq | decSet =>
    exact congrArg _ (decodeFrame_withInputs ..)
  case reserved5 | reserved6 | reservedD | reservedE | reservedF =>
    exact congrArg _ (reservedCommand_withInputs ..)

end WithInputs

/-! ### A run applies its commands one after another (R247) -/

/-- The state one command leads to: R13's Step. -/
def perform (s : State) (c : Command) : State :=
  match exec (decode c) s with
  | .next t => t
  | .fault _ | .refused _ => s

theorem exec_decode (c : Command) (s : State) : exec (decode c) s = .next (perform s c) := by
  obtain ⟨t, h⟩ := exec_total (decode c) s
  simp only [perform, h]

theorem perform_withInputs (xs : List HostInput) (s : State) (c : Command) :
    perform { s with inputs := xs } c = { perform s c with inputs := xs } :=
  Host.Outcome.next.inj ((exec_decode c _).symm.trans (exec_withInputs xs (exec_decode c s)))

theorem perform_halted (hhalt : s.fault.f = true) (c : Command) : perform s c = s := by
  simp only [perform, exec_halted _ hhalt]

/-- One step of a run, for any machine. -/
theorem coreRun_succ_of_step {M : Host.Core} {a b : M.State} (h : M.step a = .next b) (n : Nat) :
    M.run (n + 1) a = M.run n b := by
  simp only [Host.Core.run, h]

theorem runAll_of_inputs_nil (h : s.inputs = []) : s.runAll = .next s := by
  rw [State.runAll, h]
  rfl

theorem runAll_presentCommand (c : Command) (s : State) :
    (presentCommand c s).runAll = (perform s c).runAll := by
  have hstep := (step_presentCommand c s).trans (exec_decode c s)
  rw [State.runAll, State.runAll, (exec_effect (exec_decode c s)).inputs_eq]
  exact coreRun_succ_of_step hstep s.inputs.length

/-- The run of a list of commands is their fold. -/
theorem runAll_commands (cs : List Command) (s : State) :
    State.runAll { s with inputs := cs.map fun c => ⟨false, some c⟩ } =
      .next { cs.foldl perform s with inputs := [] } := by
  induction cs generalizing s with
  | nil => exact runAll_of_inputs_nil rfl
  | cons c cs ih =>
    have hfirst := runAll_presentCommand c { s with inputs := cs.map fun c => ⟨false, some c⟩ }
    rw [perform_withInputs] at hfirst
    exact hfirst.trans (ih (perform s c))

theorem runAll_loaded (c : Config) (cs : List Command) :
    (State.loaded c cs).runAll = .next { cs.foldl perform (.resetWith c) with inputs := [] } :=
  runAll_commands cs (.resetWith c)

/-- Settles O55: the run of `cs ++ ds` performs `ds` from the end of the run of `cs`, where a halted block
ignores every command. -/
theorem aFaultedRunNeverEndsWell : Obligations.AFaultedRunNeverEndsWell := by
  intro c cs ds t hrun hhalt
  rw [runAll_loaded] at hrun
  cases hrun
  have hend : (cs.foldl perform (.resetWith c)).fault.f = true := hhalt
  have hstay : (cs ++ ds).foldl perform (.resetWith c) = cs.foldl perform (.resetWith c) := by
    rw [List.foldl_append, List.foldl_fixed' (perform_halted hend)]
  refine ⟨_, runAll_loaded c (cs ++ ds), ?_⟩
  rw [hstay]
  exact ⟨rfl, rfl, rfl, ne_false_of_eq_true hend⟩

end Sys2Proof.Machine
end

section
/-! PROOFS. The packer's range check and the type field (40_identifier R102, R104, R106), the writes of FR
(10_state R26, R27; 40_identifier R109), and the decoders' prologue and windows (43_decode R171, R183,
R187). -/

namespace Sys2Proof.Machine

open Sys2Proof.Spec

variable {c : Config} {i : Instr} {s t : State}

/-! ### ID_RANGE (R102) -/

/-- A fitting address only adds to the shifted type value, so the check of R102 sees their sum. -/
theorem packId_idRange {ty a : Byte} (hab : c.ab ≤ 8) (ha : a.toNat ≤ c.amask)
    (hwide : 0x7FF < ty.toNat <<< c.ab ||| a.toNat) : packId c ty a = .error .idRange := by
  have hlt : a.toNat < 2 ^ c.ab := Nat.lt_of_le_pred (Nat.two_pow_pos c.ab) ha
  rw [← Nat.shiftLeft_add_eq_or_of_lt hlt, Nat.shiftLeft_eq] at hwide
  rw [packId_fits hab ty ha, if_pos hwide]

theorem packId_kind_ne_idRange (hc : c.wf = true) (k : MsgKind) (a : Byte) :
    packId c (c.typeCode k) a ≠ .error .idRange := by
  by_cases ha : a.toNat ≤ c.amask
  · rw [packId_kind hc k ha]
    nofun
  · rw [packId_addrRange (Nat.lt_of_not_le ha)]
    nofun

/-- Settles O11: PACK_ID compares the composed value with 0x7FF, and the type codes of a well-formed
configuration leave room for every fitting address. -/
theorem packIdRefusesAWideIdentifier : Obligations.PackIdRefusesAWideIdentifier :=
  ⟨fun _ _ _ => packId_idRange, fun _ k a hc => packId_kind_ne_idRange hc k a⟩

/-! ### The type field (R104, R106) -/

theorem typeField_eq_ofNat (c : Config) (id : BitVec 11) :
    typeField c id = BitVec.ofNat 11 (id.toNat / 2 ^ c.ab) := by
  have hlt : id.toNat / 2 ^ c.ab < 2 ^ 11 := (Nat.div_le_self ..).trans_lt id.isLt
  apply BitVec.eq_of_toNat_eq
  rw [typeField, BitVec.toNat_ushiftRight, Nat.shiftRight_eq_div_pow, BitVec.toNat_ofNat,
    Nat.mod_eq_of_lt hlt]

theorem classify_eq_ftDecode (c : Config) (id : BitVec 11) :
    classify c id = c.ftDecode (BitVec.ofNat 11 (id.toNat / 2 ^ c.ab)) := by
  rw [classify, typeField_eq_ofNat]

/-- Settles O12: the type field is the quotient by 2^AB, and CLASSIFY reads nothing else. -/
theorem classifyReadsTheTypeFieldOnly : Obligations.ClassifyReadsTheTypeFieldOnly :=
  ⟨classify_eq_ftDecode, fun c id id' h => by rw [classify_eq_ftDecode, h, ← classify_eq_ftDecode]⟩

/-! ### The writes of FR (R26, R27) -/

/-- A command keeps FR, or is a LIFT or constructor that writes it whole, with a buffer that FR may hold. -/
theorem Effect.fr_cases (h : Effect i s t) :
    t.fr = s.fr ∨
      (writesFrame i = true ∧ s.fault.f = false ∧ ∃ id b, Body.Good b ∧ t = writeFrame id b s) := by
  cases h with
  | halted => exact .inl rfl
  | fault => exact .inl (raiseFault_fr ..)
  | result => exact .inl (writeRes_fr ..)
  | frame id b run hop hgood =>
    exact .inr ⟨(writesFrame_eq i).trans (decide_eq_true hop), run, id, b, hgood, rfl⟩

/-- I1 holds by the width of FR.ID, I2 and I3 by the buffer, I4 by the write itself. -/
theorem frameInvariants_writeFrame {b : Body} (h : b.Good) (id : BitVec 11) (s : State) :
    frameInvariants (writeFrame id b s) :=
  ⟨Nat.le_of_lt_succ id.isLt, h.1, h.2, rfl⟩

/-- I1 to I4 speak of FR and the configuration alone. -/
theorem frameInvariants_congr (hcfg : t.cfg = s.cfg) (hfr : t.fr = s.fr) :
    frameInvariants t ↔ frameInvariants s := by
  rw [frameInvariants, frameInvariants, hcfg, hfr]

theorem Effect.fr_eq_or_frameInvariants (h : Effect i s t) :
    t.fr = s.fr ∨ (writesFrame i = true ∧ t.fr.valid = true ∧ frameInvariants t) := by
  obtain hfr | ⟨hwrites, -, id, b, hgood, rfl⟩ := h.fr_cases
  · exact .inl hfr
  · exact .inr ⟨hwrites, rfl, frameInvariants_writeFrame hgood id s⟩

theorem Effect.keeps_frameInvariants (h : Effect i s t)
    (hs : s.fr.valid = true → frameInvariants s) (hvalid : t.fr.valid = true) : frameInvariants t := by
  obtain hfr | ⟨-, -, ht⟩ := h.fr_eq_or_frameInvariants
  · exact (frameInvariants_congr h.cfg_eq hfr).mpr (hs (hfr ▸ hvalid))
  · exact ht

/-- Settles O45: a command that writes FR establishes I1 to I4, idling and every other command keep FR and
the configuration, and reset leaves no valid Frame. -/
theorem frameInvariantsAreEstablished : Obligations.FrameInvariantsAreEstablished := by
  refine ⟨fun i s t h => (exec_effect h).fr_eq_or_frameInvariants, fun s t hs h hvalid => ?_, fun _ => rfl⟩
  obtain ⟨-, rfl⟩ | ⟨_, rest, -, ⟨-, rfl⟩ | ⟨-, -, rfl⟩ | ⟨c, -, -, hexec⟩⟩ := step_cases h
  · exact hs hvalid
  · cases hvalid
  · exact hs hvalid
  · exact (exec_effect hexec).keeps_frameInvariants hs hvalid

/-! ### Frames of kind OTHER (R109, R187) -/

/-- A constructor that writes FR leaves its own kind there (R109). -/
theorem kind_of_constructor_writes {k : MsgKind} (hc : s.cfg.wf = true) (hi : encKind i = some k)
    (h : exec i s = .next t) (hne : t.fr ≠ s.fr) : t.fr.kind = .msg k := by
  obtain hfr | ⟨-, run, _, _, -, ht⟩ := (exec_effect h).fr_cases
  · exact absurd hfr hne
  · have hok : t.fault.f = false := by rw [ht, writeFrame_fault, run]
    obtain ⟨ha, b, rfl⟩ := exec_constructor_ok hc run hi h hok
    exact classify_composed hc k ha

/-- A command that replaces FR caches there what FT_DECODE says of the type field (R26 I4, R106). -/
theorem Effect.kind_eq_ftDecode (h : Effect i s t) (hne : t.fr ≠ s.fr) :
    t.fr.kind = t.cfg.ftDecode (BitVec.ofNat 11 (t.fr.id.toNat / 2 ^ t.cfg.ab)) := by
  obtain hfr | ⟨-, -, -, -, -, hkind⟩ := h.fr_eq_or_frameInvariants
  · exact absurd hfr hne
  · rw [hkind, classify_eq_ftDecode]

/-- Settles O36: OTHER is no decoder's kind, and of the commands that write FR a constructor caches the kind
it builds, so that only LIFT is left. -/
theorem otherKindFailsEveryDecoder : Obligations.OtherKindFailsEveryDecoder := by
  refine ⟨fun s i k run hvalid hother hi => ?_, fun s t i hc h _ hother hne => ?_⟩
  · exact decodersCheckTheKindFirst s i k run hvalid hi (by rw [hother]; nofun)
  · obtain hfr | ⟨hwrites, -⟩ := (exec_effect h).fr_cases
    · exact absurd hfr hne
    · obtain ⟨k, hi⟩ | ⟨ext, rtr, id, n, w, rfl⟩ := writesFrame_cases hwrites
      · rw [kind_of_constructor_writes hc hi h hne] at hother
        cases hother
      · exact ⟨ext, rtr, id, n, w, rfl, ((exec_effect h).kind_eq_ftDecode hne).symm.trans hother⟩

/-! ### FR.LEN and the decoders (R183) -/

/-- `s` with another FR.LEN, and FR otherwise as it is. -/
def State.withLen (s : State) (n : BitVec 4) : State := { s with fr := { s.fr with len := n } }

/-- An unpack step that looks at no FR.LEN. -/
def IgnoresLen (unpack : Config → FrameReg → Except DecErr Payload) : Prop :=
  ∀ (c : Config) (r : FrameReg) (n : BitVec 4), unpack c { r with len := n } = unpack c r

/-- The prologue reads FR.VALID and FR.KIND alone, so FR.LEN can reach RES and FAULT only through the
unpack. -/
theorem decodeFrame_withLen {unpack : Config → FrameReg → Except DecErr Payload}
    (hunpack : IgnoresLen unpack) (k : MsgKind) (op : BitVec 4) (s : State) (n : BitVec 4) :
    decodeFrame k op unpack (s.withLen n) = (decodeFrame k op unpack s).withLen n := by
  have hlen : unpack s.cfg (s.withLen n).fr = unpack s.cfg s.fr := hunpack s.cfg s.fr n
  cases run : s.fault.f with
  | true => rw [decodeFrame, unlessHalted_halted run, unlessHalted_halted (s := s.withLen n) run]
  | false =>
    obtain ⟨hvalid, ht⟩ | ⟨hvalid, hkind, ht⟩ | ⟨e, hvalid, hkind, he, ht⟩ | ⟨p, hvalid, hkind, hp, ht⟩ :=
      decodeFrame_cases (k := k) (op := op) (unpack := unpack) run <;> rw [ht]
    · exact decodeFrame_noFrame (s := s.withLen n) run hvalid
    · exact decodeFrame_wrongKind (s := s.withLen n) run hvalid hkind
    · exact decodeFrame_of_unpack_error (s := s.withLen n) run hvalid hkind (hlen.trans he)
    · exact decodeFrame_of_unpack_ok (s := s.withLen n) run hvalid hkind (hlen.trans hp)

/-- The windows of Emergency, Error and the data messages are fixed, whatever FR.LEN is (R172, R176 to
R178). -/
theorem exec_fixedWindow_decoder (hi : i ∈ [.decEmg, .decErr, .decSent, .decSet]) :
    ∃ k unpack, IgnoresLen unpack ∧ ∀ s, exec i s = .next (decodeFrame k i.opcode unpack s) := by
  simp only [List.mem_cons, List.not_mem_nil, or_false] at hi
  obtain rfl | rfl | rfl | rfl := hi
  · exact ⟨_, _, fun _ _ _ => rfl, exec_decEmg⟩
  · exact ⟨_, _, fun _ _ _ => rfl, exec_decErr⟩
  · exact ⟨_, _, fun _ _ _ => rfl, exec_decSent⟩
  · exact ⟨_, _, fun _ _ _ => rfl, exec_decSet⟩

/-- Settles O35: neither the prologue nor the unpack of the four decoders looks at FR.LEN. -/
theorem decodersCheckNoLength : Obligations.DecodersCheckNoLength := by
  intro s t t' n i hi h h'
  obtain ⟨k, unpack, hunpack, hexec⟩ := exec_fixedWindow_decoder hi
  rw [hexec] at h h'
  cases h
  cases h'
  have hlen := decodeFrame_withLen hunpack k i.opcode s n
  exact ⟨(congrArg State.res hlen :), (congrArg State.fault hlen :)⟩

end Sys2Proof.Machine
end
